-- ==== Sys2Proof/Word.lean ====
section
/-! DEFINITION. The word types of the block: a byte, a nibble, an originating error code, a command word, a response word. -/

namespace Sys2Proof

/-- One byte: a bus transfer, a byte operand, the packed output register image (`IMG_W` = 8, 00_scope.md R5). -/
abbrev Byte := BitVec 8

/-- One transfer on the display data lines (`NIB_W` = 4, 00_scope.md R5). -/
abbrev Nibble := BitVec 4

/-- The originating error code `c` of a failed bus event, in the 16 bits the response has for it (30_encoding.md R84); the
parameter `ECODE_W` says how many of them a code uses (`Config.ecodeW`; 00_scope.md R5, 92_eei_decisions.md D15). -/
abbrev ECode := BitVec 16

/-- The 24-bit command word `CW = {OP, A, B}` (30_encoding.md R70). -/
abbrev CmdWord := BitVec 24

/-- The 56-bit response `RESP` (30_encoding.md R84). -/
abbrev RespWord := BitVec 56

/-- A payload (30_encoding.md R71): `none` is `PV` = 0; `some bs` is `PV` = 1 with `PL` = `bs.length` and `PB` = `bs`. -/
abbrev Payload := Option (List Byte)

end Sys2Proof
end

