-- ==== Sys2Proof/Config.lean ====
section
/-! DEFINITION. What one implementation fixes (the parameters of 00_scope.md R5), the answer sets of the bus events
(20_memory.md R50) and the environment's free answers (20_memory.md R56). -/

namespace Sys2Proof

/-- Bit positions of the fields of `IMG` in the byte (parameter `LAYOUT`, 30_encoding.md R74): the four one-bit fields,
and in `d` the lowest bit of the 4-bit field `D`. -/
structure Layout where
  rs : Nat
  rw : Nat
  e  : Nat
  bl : Nat
  d  : Nat
deriving DecidableEq, Repr

/-- The default layout: `RS` = 0, `RW` = 1, `E` = 2, `BL` = 3, `D` = 7:4 (30_encoding.md R74). -/
def Layout.default : Layout := { rs := 0, rw := 1, e := 2, bl := 3, d := 4 }

/-- The five fields lie apart and together fill the byte (10_state.md R21). -/
def Layout.valid (l : Layout) : Bool :=
  decide (l.d ≤ 4) && decide ([l.rs, l.rw, l.e, l.bl].Nodup) &&
    [l.rs, l.rw, l.e, l.bl].all fun p => decide (p < 8) && (decide (p < l.d) || decide (l.d + 4 ≤ p))

/-- The values of `POLL_CAP`, the bound on busy-poll iterations: there is one, `none`. The bounded poll is not part of this
hardware (00_scope.md R1, 70_reset_and_hazards.md R226; 93_implementation_defined.md U8: the parameter is fixed to
`none`). Log entry 11. -/
inductive PollCap where
  | none
deriving DecidableEq, Repr

/-- The parameters that 00_scope.md R5 gives by decision and that a claim may quantify over. -/
structure Config where
  layout     : Layout
  /-- `OPC_CLEAR`, "clear display". -/
  opcClear   : Byte
  /-- `OPC_HOME`, "cursor home". -/
  opcHome    : Byte
  /-- `OPC_FUNC8`, "8-bit-mode function-set". -/
  opcFunc8   : Byte
  /-- `NIB_TO4`, the raw nibble that enters 4-bit mode. -/
  nibTo4     : Nibble
  /-- `OPC_FUNC4`, "4-bit/2-line/5×8-font function-set". -/
  opcFunc4   : Byte
  /-- `OPC_CURSOR`, "visible blinking cursor". -/
  opcCursor  : Byte
  /-- `PREWRITE`: staging a nibble also writes the image before the strobe is raised. -/
  prewrite   : Bool
  /-- `POLL_CAP`: no bound. -/
  pollCap    : PollCap
  /-- `IMG_RESET`, the reset value of `IMG`. -/
  imgReset   : Byte
  /-- `ECODE_W`, the width of an originating error code; the response has room for 16 bits (30_encoding.md R84). Log
  entry 12. -/
  ecodeW     : Nat
  /-- `DEVNAME_MAX`, the longest device name. -/
  devNameMax : Nat
deriving DecidableEq, Repr

/-- The defaults of 00_scope.md R5. -/
def Config.default : Config where
  layout     := Layout.default
  opcClear   := 0x01#8
  opcHome    := 0x02#8
  opcFunc8   := 0x30#8
  nibTo4     := 0x2#4
  opcFunc4   := 0x28#8
  opcCursor  := 0x0F#8
  prewrite   := false
  pollCap    := .none
  imgReset   := 0x00#8
  ecodeW     := 16
  devNameMax := 255

/-- `DEV_RESET`: the 10 bytes of ASCII `/dev/i2c-1`, the reset value of `DEV`. -/
def Config.devReset : List Byte :=
  [0x2F#8, 0x64#8, 0x65#8, 0x76#8, 0x2F#8, 0x69#8, 0x32#8, 0x63#8, 0x2D#8, 0x31#8]

/-- A configuration the parameter types allow: the layout fills the byte, the reset device
name is a legal one and every legal name fits the 8-bit `PL` (10_state.md R28, R35, 30_encoding.md R71), an error code
fits the response's `ECODE` (30_encoding.md R84), and the strobe is low in the reset image (10_state.md R31 (b): it is low
whenever the sequencer is idle). Log entry 22. -/
def Config.legal (c : Config) : Bool :=
  c.layout.valid && decide (Config.devReset.length ≤ c.devNameMax) && decide (c.devNameMax ≤ 255) &&
    decide (c.ecodeW ≤ 16) && !c.imgReset.getLsbD c.layout.e

/-! The values the document itself fixes (00_scope.md R5, source "document"). -/

/-- `LINE_N`: data bytes written by one `LINE`. -/
def Config.lineN : Nat := 17

/-- `PAD`: the pad byte of `LINE`. -/
def Config.pad : Byte := 0x20#8

/-- `ROW2_BASE`: the address-counter value where row 2 begins. -/
def Config.row2Base : Nat := 0x40

/-- `OPC_SETDDA`: the "set DDRAM address" opcode bit. -/
def Config.opcSetdda : Byte := 0x80#8

/-- `ADDR_RESET`: the reset value of `ADDR`. -/
def Config.addrReset : Byte := 0x27#8

/-- `EXCL_RESET`: the reset value of `EXCL`. -/
def Config.exclReset : Bool := false

/-! The answer set of each bus event (20_memory.md R50). `BusClose` has no answer. -/

/-- Answers to `BusOpen`. -/
inductive OpenAnswer where
  | ok
  | addrFail
  | ioFail (c : ECode)
deriving DecidableEq, Repr, Inhabited

/-- Answers to `MemWrite`. -/
inductive WriteAnswer where
  | ok
  | ioFail (c : ECode)
deriving DecidableEq, Repr, Inhabited

/-- Answers to `MemRead`: the levels of the expander's eight lines, or a failure. -/
inductive ReadAnswer where
  | byte (v : Byte)
  | ioFail (c : ECode)
deriving DecidableEq, Repr, Inhabited

/-! The environment's answers are free (20_memory.md R56): opaque constants without a body, applied to the counter
`Env.drawn` of free draws. Nothing can be proved of their values; a drawn error code is cut to `ECODE_W` bits where it is
taken. Log entry 2. -/

/-- The free answer to a `BusOpen`. -/
opaque Config.freeOpen : Nat → OpenAnswer

/-- The free answer to a `MemWrite`. -/
opaque Config.freeWrite : Nat → WriteAnswer

/-- The free answer to a `MemRead`. -/
opaque Config.freeRead : Nat → ReadAnswer

end Sys2Proof
end

