-- ==== Sys2Proof/Syntax.lean ====
section
/-! DEFINITION. The command set: one constructor of `Instr` per row of spec/opcode_table.json (30_encoding.md R73), what
the host puts on the command port (R70, R71), and the pseudo-commands (R89). -/

namespace Sys2Proof

/-- The 21 commands with their operands (30_encoding.md R72, R73). -/
inductive Instr where
  /-- `OPEN`, format N, 40_bus_transport.md R100. -/
  | openBus
  /-- `CLOSE`, format N, R101. -/
  | closeBus
  /-- `WRREG`, format N, R102. -/
  | wrreg
  /-- `LATCH`, format N, R103. -/
  | latch
  /-- `RDREG`, format N, R104. -/
  | rdreg
  /-- `SETBL f`, format F, 41_config_access.md R120. -/
  | setbl (f : Bool)
  /-- `GETBL`, format N, R121. -/
  | getbl
  /-- `SETEXCL f`, format F, R122. -/
  | setexcl (f : Bool)
  /-- `GETEXCL`, format N, R123. -/
  | getexcl
  /-- `SETADDR a`, format V, R124. -/
  | setaddr (a : Byte)
  /-- `GETADDR`, format N, R125. -/
  | getaddr
  /-- `SETDEV p`, format P, R126. -/
  | setdev (p : Payload)
  /-- `GETDEV`, format N, R127. -/
  | getdev
  /-- `INIT`, format N, 43_display_sequences.md R160. -/
  | init
  /-- `WRBYTE rs, v`, format W, 42_display_protocol.md R141. -/
  | wrbyte (rs : Bool) (v : Byte)
  /-- `CLEAR`, format N, R143. -/
  | clear
  /-- `HOME`, format N, R144. -/
  | home
  /-- `SETDDA off`, format V, R145. -/
  | setdda (off : Byte)
  /-- `CURSMODE`, format N, R146. -/
  | cursmode
  /-- `LINE off, t`, format L, 43_display_sequences.md R162. -/
  | line (off : Byte) (t : Payload)
  /-- `GETSTAT`, format N, 42_display_protocol.md R147. -/
  | getstat
deriving DecidableEq, Repr

/-- What the host presents on the command port: the command word and the payload (30_encoding.md R70, R71). -/
structure PortCmd where
  cw      : CmdWord
  payload : Payload
deriving DecidableEq, Repr

/-- The pseudo-commands of 30_encoding.md R89. -/
inductive Pseudo where
  | line1 (t : Payload)
  | line2 (t : Payload)
  | blon
  | bloff
  | shutdown
deriving DecidableEq, Repr

/-- The expansion of each pseudo-command (30_encoding.md R89). -/
def Pseudo.expand : Pseudo → List Instr
  | .line1 t  => [.line 0x00#8 t]
  | .line2 t  => [.line 0x40#8 t]
  | .blon     => [.setbl true]
  | .bloff    => [.setbl false]
  | .shutdown => [.setexcl false, .closeBus]

end Sys2Proof
end

