-- ==== Sys2Proof/WellFormed.lean ====
section
/-! DEFINITION. Which commands the command port can carry legally (30_encoding.md R71, R72). -/

namespace Sys2Proof

/-- `PL` is 8 bits: a payload holds at most 255 bytes (30_encoding.md R71). -/
def Payload.fits : Payload → Bool
  | none => true
  | some bs => decide (bs.length ≤ 255)

/-- A device name has 1 to `DEVNAME_MAX` bytes; the absent name is legal (30_encoding.md R72 format P, 10_state.md R28). -/
def Payload.nameLegal (c : Config) : Payload → Bool
  | none => true
  | some bs => decide (1 ≤ bs.length) && decide (bs.length ≤ c.devNameMax)

/-- Operands are 1-bit flags and 8-bit bytes by type, so only the payloads carry a condition (30_encoding.md R72). -/
def Instr.wellFormed (c : Config) : Instr → Bool
  | .openBus | .closeBus | .wrreg | .latch | .rdreg => true
  | .setbl _ | .getbl | .setexcl _ | .getexcl | .setaddr _ | .getaddr | .getdev => true
  | .setdev p => p.fits && p.nameLegal c
  | .init | .wrbyte _ _ | .clear | .home | .setdda _ | .cursmode | .getstat => true
  | .line _ t => t.fits

end Sys2Proof
end

