-- ==== Sys2Proof/Decode.lean ====
section
/-! DEFINITION. The command word (30_encoding.md R70 to R73, R86, R87): the opcode table, the decoder, the encoder. -/

namespace Sys2Proof

/-! ### Fields of the command word (R70) -/

/-- `OP`, bits 23:16. -/
def CmdWord.op (w : CmdWord) : Byte := w.extractLsb' 16 8

/-- `A`, bits 15:8. -/
def CmdWord.a (w : CmdWord) : Byte := w.extractLsb' 8 8

/-- `B`, bits 7:0. -/
def CmdWord.b (w : CmdWord) : Byte := w.extractLsb' 0 8

/-- `CW = {OP, A, B}`. -/
def CmdWord.make (op a b : Byte) : CmdWord := op ++ a ++ b

/-- A flag operand is the one bit `A[0]` (R72). -/
def flagByte (f : Bool) : Byte := if f then 0x01#8 else 0x00#8

/-! ### Decoding -/

/-- Why a command is illegal (30_encoding.md R86). -/
inductive DecodeError where
  /-- `OP` is not in the table of R73. -/
  | reservedOpcode
  /-- a field that the format requires to be 0 is not 0. -/
  | reservedField
  /-- `PV` = 1 on a format that takes no payload. -/
  | payloadNotTaken
  /-- `SETDEV` with `PV` = 1 and `PL` = 0 or `PL` > `DEVNAME_MAX`. -/
  | badNameLength
  /-- more than 255 payload bytes: the 8-bit `PL` of R71 cannot say so. Log entry 9. -/
  | payloadTooLong
deriving DecidableEq, Repr

/-- What the decoder answers. -/
inductive Decoded where
  | ok (i : Instr)
  | illegal (e : DecodeError)
deriving DecidableEq, Repr

/-- A command whose format takes no payload: `PV` must be 0 (R71). -/
def noPayload (pl : Payload) (i : Instr) : Decoded :=
  if pl.isSome then .illegal .payloadNotTaken else .ok i

/-- Format N: `A` = 0, `B` = 0, no payload. -/
def formatN (w : CmdWord) (pl : Payload) (i : Instr) : Decoded :=
  if w.a = 0#8 ∧ w.b = 0#8 then noPayload pl i else .illegal .reservedField

/-- Format F: `A[0]` = flag, `A[7:1]` = 0, `B` = 0, no payload. -/
def formatF (w : CmdWord) (pl : Payload) (k : Bool → Instr) : Decoded :=
  if w.a >>> 1 = 0#8 ∧ w.b = 0#8 then noPayload pl (k (w.a.getLsbD 0)) else .illegal .reservedField

/-- Format V: `A` = byte, `B` = 0, no payload. -/
def formatV (w : CmdWord) (pl : Payload) (k : Byte → Instr) : Decoded :=
  if w.b = 0#8 then noPayload pl (k w.a) else .illegal .reservedField

/-- Format W: `A[0]` = `rs`, `A[7:1]` = 0, `B` = byte, no payload. -/
def formatW (w : CmdWord) (pl : Payload) (k : Bool → Byte → Instr) : Decoded :=
  if w.a >>> 1 = 0#8 then noPayload pl (k (w.a.getLsbD 0) w.b) else .illegal .reservedField

/-- Format P: `A` = 0, `B` = 0, payload absent or a legal name. -/
def formatP (c : Config) (w : CmdWord) (pl : Payload) (k : Payload → Instr) : Decoded :=
  if w.a = 0#8 ∧ w.b = 0#8 then
    if pl.nameLegal c then .ok (k pl) else .illegal .badNameLength
  else .illegal .reservedField

/-- Format L: `A` = byte, `B` = 0, any payload. -/
def formatL (w : CmdWord) (pl : Payload) (k : Byte → Payload → Instr) : Decoded :=
  if w.b = 0#8 then .ok (k w.a pl) else .illegal .reservedField

/-- The opcode map of 30_encoding.md R73, for a payload that the port can carry. -/
def decodeOp (c : Config) (w : CmdWord) (pl : Payload) : Decoded :=
  match w.op.toNat with
  | 0x01 => formatN w pl .openBus
  | 0x02 => formatN w pl .closeBus
  | 0x03 => formatN w pl .wrreg
  | 0x04 => formatN w pl .latch
  | 0x05 => formatN w pl .rdreg
  | 0x08 => formatF w pl .setbl
  | 0x09 => formatN w pl .getbl
  | 0x0A => formatF w pl .setexcl
  | 0x0B => formatN w pl .getexcl
  | 0x0C => formatV w pl .setaddr
  | 0x0D => formatN w pl .getaddr
  | 0x0E => formatP c w pl .setdev
  | 0x0F => formatN w pl .getdev
  | 0x10 => formatN w pl .init
  | 0x11 => formatW w pl .wrbyte
  | 0x12 => formatN w pl .clear
  | 0x13 => formatN w pl .home
  | 0x14 => formatV w pl .setdda
  | 0x15 => formatN w pl .cursmode
  | 0x16 => formatL w pl .line
  | 0x17 => formatN w pl .getstat
  | _    => .illegal .reservedOpcode

/-- The decoder, total on everything the port's type can hold. -/
def decode (c : Config) (p : PortCmd) : Decoded :=
  if p.payload.fits then decodeOp c p.cw p.payload else .illegal .payloadTooLong

/-- The command the decoder reads from a table word: the word itself with no payload, under the default parameters. -/
def decodeTableWord (nbits w : Nat) : Option Instr :=
  if w % 2 ^ nbits < 2 ^ 24 then
    match decode Config.default { cw := BitVec.ofNat 24 (w % 2 ^ nbits), payload := none } with
    | .ok i => some i
    | .illegal _ => none
  else none

/-! ### Encoding -/

/-- The opcode of each command (30_encoding.md R73). -/
def Instr.opcode : Instr → Byte
  | .openBus    => 0x01#8
  | .closeBus   => 0x02#8
  | .wrreg      => 0x03#8
  | .latch      => 0x04#8
  | .rdreg      => 0x05#8
  | .setbl _    => 0x08#8
  | .getbl      => 0x09#8
  | .setexcl _  => 0x0A#8
  | .getexcl    => 0x0B#8
  | .setaddr _  => 0x0C#8
  | .getaddr    => 0x0D#8
  | .setdev _   => 0x0E#8
  | .getdev     => 0x0F#8
  | .init       => 0x10#8
  | .wrbyte _ _ => 0x11#8
  | .clear      => 0x12#8
  | .home       => 0x13#8
  | .setdda _   => 0x14#8
  | .cursmode   => 0x15#8
  | .line _ _   => 0x16#8
  | .getstat    => 0x17#8

/-- The operand field `A` (30_encoding.md R72). -/
def Instr.fieldA : Instr → Byte
  | .setbl f | .setexcl f => flagByte f
  | .setaddr a            => a
  | .wrbyte rs _          => flagByte rs
  | .setdda off           => off
  | .line off _           => off
  | .openBus | .closeBus | .wrreg | .latch | .rdreg | .getbl | .getexcl | .getaddr | .setdev _ | .getdev | .init
  | .clear | .home | .cursmode | .getstat => 0#8

/-- The operand field `B` (30_encoding.md R72): only format W uses it. -/
def Instr.fieldB : Instr → Byte
  | .wrbyte _ v => v
  | .openBus | .closeBus | .wrreg | .latch | .rdreg | .setbl _ | .getbl | .setexcl _ | .getexcl | .setaddr _
  | .getaddr | .setdev _ | .getdev | .init | .clear | .home | .setdda _ | .cursmode | .line _ _ | .getstat => 0#8

/-- The payload (30_encoding.md R71, R72): formats P and L only. -/
def Instr.payload : Instr → Payload
  | .setdev p => p
  | .line _ t => t
  | .openBus | .closeBus | .wrreg | .latch | .rdreg | .setbl _ | .getbl | .setexcl _ | .getexcl | .setaddr _
  | .getaddr | .getdev | .init | .wrbyte _ _ | .clear | .home | .setdda _ | .cursmode | .getstat => none

/-- What the host presents for a command. -/
def encode (i : Instr) : PortCmd :=
  { cw := CmdWord.make i.opcode i.fieldA i.fieldB, payload := i.payload }

/-! ### The opcode table as data (spec/opcode_table.json) -/

/-- How a row takes its payload. -/
inductive PayloadForm where
  | absent
  | name
  | text
deriving DecidableEq, Repr

/-- One row of spec/opcode_table.json: a word `w` is the row's when `w & mask` is `pat` (30_encoding.md R73). -/
structure TableRow where
  mnemonic : String
  pat      : CmdWord
  mask     : CmdWord
  payload  : PayloadForm
deriving DecidableEq, Repr

/-- Rows 0x01 to 0x0F of the table. -/
def transportRows : List TableRow :=
  [ ⟨"OPEN",    0x010000#24, 0xFFFFFF#24, .absent⟩,
    ⟨"CLOSE",   0x020000#24, 0xFFFFFF#24, .absent⟩,
    ⟨"WRREG",   0x030000#24, 0xFFFFFF#24, .absent⟩,
    ⟨"LATCH",   0x040000#24, 0xFFFFFF#24, .absent⟩,
    ⟨"RDREG",   0x050000#24, 0xFFFFFF#24, .absent⟩,
    ⟨"SETBL",   0x080000#24, 0xFFFEFF#24, .absent⟩,
    ⟨"GETBL",   0x090000#24, 0xFFFFFF#24, .absent⟩,
    ⟨"SETEXCL", 0x0A0000#24, 0xFFFEFF#24, .absent⟩,
    ⟨"GETEXCL", 0x0B0000#24, 0xFFFFFF#24, .absent⟩,
    ⟨"SETADDR", 0x0C0000#24, 0xFF00FF#24, .absent⟩,
    ⟨"GETADDR", 0x0D0000#24, 0xFFFFFF#24, .absent⟩,
    ⟨"SETDEV",  0x0E0000#24, 0xFFFFFF#24, .name⟩,
    ⟨"GETDEV",  0x0F0000#24, 0xFFFFFF#24, .absent⟩ ]

/-- Rows 0x10 to 0x17 of the table. -/
def displayRows : List TableRow :=
  [ ⟨"INIT",     0x100000#24, 0xFFFFFF#24, .absent⟩,
    ⟨"WRBYTE",   0x110000#24, 0xFFFE00#24, .absent⟩,
    ⟨"CLEAR",    0x120000#24, 0xFFFFFF#24, .absent⟩,
    ⟨"HOME",     0x130000#24, 0xFFFFFF#24, .absent⟩,
    ⟨"SETDDA",   0x140000#24, 0xFF00FF#24, .absent⟩,
    ⟨"CURSMODE", 0x150000#24, 0xFFFFFF#24, .absent⟩,
    ⟨"LINE",     0x160000#24, 0xFF00FF#24, .text⟩,
    ⟨"GETSTAT",  0x170000#24, 0xFFFFFF#24, .absent⟩ ]

/-- All 21 rows. -/
def opcodeTable : List TableRow := transportRows ++ displayRows

/-- The word is the row's as far as `CW` goes. -/
def TableRow.hits (r : TableRow) (w : CmdWord) : Bool := (w &&& r.mask) == r.pat

/-- The payload is one the row's format takes (30_encoding.md R72). -/
def PayloadForm.takes (c : Config) : PayloadForm → Payload → Bool
  | .absent, pl => pl.isNone
  | .name,   pl => pl.fits && pl.nameLegal c
  | .text,   pl => pl.fits

/-- The mnemonic of each command, as spec/opcode_table.json spells it. -/
def Instr.mnemonic : Instr → String
  | .openBus    => "OPEN"
  | .closeBus   => "CLOSE"
  | .wrreg      => "WRREG"
  | .latch      => "LATCH"
  | .rdreg      => "RDREG"
  | .setbl _    => "SETBL"
  | .getbl      => "GETBL"
  | .setexcl _  => "SETEXCL"
  | .getexcl    => "GETEXCL"
  | .setaddr _  => "SETADDR"
  | .getaddr    => "GETADDR"
  | .setdev _   => "SETDEV"
  | .getdev     => "GETDEV"
  | .init       => "INIT"
  | .wrbyte _ _ => "WRBYTE"
  | .clear      => "CLEAR"
  | .home       => "HOME"
  | .setdda _   => "SETDDA"
  | .cursmode   => "CURSMODE"
  | .line _ _   => "LINE"
  | .getstat    => "GETSTAT"

end Sys2Proof
end

