-- ==== Sys2Proof/Machine/Image.lean ====
section
/-! DEFINITION. The output register image `IMG` (10_state.md R21, 30_encoding.md R74 to R76): its fields, the byte it
stands for, staging a field. -/

namespace Sys2Proof.Machine

/-- The five fields of `IMG` (10_state.md R21), with the meaning of 30_encoding.md R75. -/
structure Img where
  /-- register select: false (0) the instruction register, true (1) the data register. -/
  rs : Bool
  /-- read/write: false (0) write, true (1) read. -/
  rw : Bool
  /-- enable, the strobe: true (1) raised. -/
  e  : Bool
  /-- backlight: true (1) on. -/
  bl : Bool
  /-- the data nibble. -/
  d  : Nibble
deriving DecidableEq, Repr

/-- A change of one field of `IMG` (00_scope.md R8: `IMG.F <- v`). -/
inductive Stage where
  | rs (b : Bool)
  | rw (b : Bool)
  | e (b : Bool)
  | bl (b : Bool)
  | d (n : Nibble)
deriving DecidableEq, Repr

/-- `IMG.F <- v` changes field `F` and no other bit (00_scope.md R8). -/
def Img.stage (f : Stage) (g : Img) : Img :=
  match f with
  | .rs b => { g with rs := b }
  | .rw b => { g with rw := b }
  | .e b  => { g with e := b }
  | .bl b => { g with bl := b }
  | .d n  => { g with d := n }

/-- One bit placed at position `p` of a byte. -/
def bitAt (b : Bool) (p : Nat) : Byte := (BitVec.ofBool b).setWidth 8 <<< p

/-- `IMG` as the one byte that is sent (10_state.md R21, 30_encoding.md R74). -/
def Img.byte (l : Layout) (g : Img) : Byte :=
  (g.d.setWidth 8 <<< l.d) ||| bitAt g.bl l.bl ||| bitAt g.e l.e ||| bitAt g.rw l.rw ||| bitAt g.rs l.rs

/-- The four bits of a byte at the position of field `D` (30_encoding.md R78). -/
def dField (l : Layout) (v : Byte) : Nibble := v.extractLsb' l.d 4

/-- The fields that a byte holds (for `IMG_RESET`). -/
def Img.ofByte (l : Layout) (v : Byte) : Img :=
  { rs := v.getLsbD l.rs, rw := v.getLsbD l.rw, e := v.getLsbD l.e, bl := v.getLsbD l.bl, d := dField l v }

/-- The status-read pattern with the strobe low: `RS` = 0, `RW` = 1, `E` = 0, `D` = 0xF (42_display_protocol.md R149 (c)). -/
def Img.readPattern (bl : Bool) : Img := { rs := false, rw := true, e := false, bl := bl, d := 0xF#4 }

end Sys2Proof.Machine
end

