-- ==== Sys2Proof/Machine/State.lean ====
section
/-! DEFINITION. The state of the block (10_state.md) with the model's own fields for the host and the environment, the
results and responses, the sequencer position, the stop reasons, and the state after reset. -/

namespace Sys2Proof.Machine

/-! ### Stops -/

/-- Why the machine stops with a fault. -/
inductive Fault where
  /-- A `MemWrite` or `MemRead` is the next bus event while `OPEN` = 0. Raised by `advance` at `Op.sendTransient` and
  `Op.sample`. The spec issues these events only while `OPEN` = 1 (20_memory.md R53, R54), so no run from reset raises
  it. Safe. Log entry 16. -/
  | transferWithoutConnection
deriving DecidableEq, Repr

/-- Why an instruction has no meaning. -/
inductive Refusal where
  /-- An instruction that has no meaning yet. Raised by no arm of `exec`: every command has its meaning. Safe. -/
  | notModelled (mnemonic : String)
deriving DecidableEq, Repr

/-! ### Results and responses -/

/-- The failure kinds (60_exceptions.md R180); only `IoFailure` carries an originating error code (00_scope.md R10). -/
inductive Failure where
  | invalidArgument
  | deviceUnspecified
  | addressingFailure
  | notConnected
  | ioFailure (c : ECode)
  /-- Reserved: no rule produces it (60_exceptions.md R186). -/
  | busy
deriving DecidableEq, Repr

/-- A result: `OK` or a failure (00_scope.md R10). -/
inductive Result where
  | ok
  | err (f : Failure)
deriving DecidableEq, Repr

/-- A response (30_encoding.md R84): the result (`CODE` and `ECODE`), the four value bytes and the output payload. -/
structure Response where
  result : Result
  data   : Byte
  ac     : Byte
  col    : Byte
  row    : Byte
  out    : Payload
deriving DecidableEq, Repr

/-! ### The sequencer position (10_state.md R33) -/

/-- Where the result of a `writeRegister()` goes. -/
inductive Dest where
  /-- the caller drops it (`stageNibble`, the latches of `writeByte`). -/
  | discard
  /-- `acc` into the command's result. -/
  | result
  /-- `acc` into the `RES` of the status read in progress. -/
  | read
deriving DecidableEq, Repr

/-- Who reads the status: `RDREG`, `GETSTAT`, or the busy-poll of `writeByte()`. -/
inductive ReadUse where
  | rdreg
  | getstat
  | poll
deriving DecidableEq, Repr

/-- Which nibble a sample gives (30_encoding.md R78). -/
inductive Half where
  | high
  | low
deriving DecidableEq, Repr

/-- One line of a running procedure's pseudocode that is still to be done. -/
inductive Op where
  /-- `IMG.F <- v`: no bus event. -/
  | stage (f : Stage)
  /-- `r <- open(); if r is a failure: return r` (40_bus_transport.md R100). -/
  | openConn
  /-- `close()` (R101). -/
  | closeConn
  /-- `writeRegister()` (R102), its result to `d`. -/
  | writeReg (d : Dest)
  /-- the `MemWrite` of a `writeRegister()` that has just opened its connection; its `close()` follows. -/
  | sendTransient (d : Dest)
  /-- the beginning of `readRegister()` (R104): the test of `OPEN`, the staging, the first write. -/
  | readStart (u : ReadUse)
  /-- `s <- MemRead(LADDR, 1)` (R104). -/
  | sample (h : Half)
  /-- the end of `readRegister()` (R104) and what its caller does with the status (R141, R147). -/
  | readEnd (u : ReadUse)
deriving DecidableEq, Repr

/-- The working registers of the running command (10_state.md R30). -/
structure Work where
  /-- what is left of the command's procedure. -/
  todo : List Op
  /-- the response being assembled; its `result` is the command's `RES`. -/
  resp : Response
  /-- the `RES` of the status read in progress. -/
  rd   : Result
  /-- `NH`. -/
  nh   : Nibble
  /-- `NL`. -/
  nl   : Nibble
deriving DecidableEq, Repr

/-- The sequencer position: idle, or running a command (10_state.md R33). -/
inductive Seq where
  | idle
  | running (w : Work)
deriving DecidableEq, Repr

/-! ### The bus port and the environment -/

/-- A bus event with its arguments and its answer (20_memory.md R50). A transfer shows the target it reaches,
`(LDEV, LADDR)` (R55, 10_state.md R29). -/
inductive BusEvent where
  | opened (dev : List Byte) (addr : Byte) (a : OpenAnswer)
  | closed
  | wrote (dev : List Byte) (addr : Byte) (v : Byte) (a : WriteAnswer)
  | sampled (dev : List Byte) (addr : Byte) (a : ReadAnswer)
deriving DecidableEq, Repr

/-- The environment (20_memory.md R56): the answers it will give to the coming events of each kind, first one first.
Where a list is empty the answer is a free value, and `drawn` counts the free values drawn. Log entry 2. -/
structure Env where
  opens  : List OpenAnswer
  writes : List WriteAnswer
  reads  : List ReadAnswer
  drawn  : Nat
deriving DecidableEq, Repr

/-! ### The state -/

/-- The block's state (10_state.md R20), its parameters, and the model's own fields. -/
structure State where
  /-- the parameters of 00_scope.md R5; no step changes them. Log entry 22. -/
  cfg       : Config
  /-- `IMG`, the output register image (R21). -/
  img       : Img
  /-- `OPEN`: a connection is held (R24). -/
  isOpen    : Bool
  /-- `EXCL`, the exclusive-mode flag (R25). -/
  excl      : Bool
  /-- `ADDR`, the configured bus address (R26). -/
  addr      : Byte
  /-- `DEV`, the configured device name; `none` is the spec's "no device path" (R28). -/
  dev       : Payload
  /-- `LADDR`, the bus address of the live connection (R29). -/
  laddr     : Byte
  /-- `LDEV`, the device name of the live connection (R29). -/
  ldev      : List Byte
  /-- the sequencer position (R33). -/
  seq       : Seq
  /-- MODEL'S OWN: the commands the host still has to issue, first one first (30_encoding.md R88). Log entry 3. -/
  host      : List PortCmd
  /-- MODEL'S OWN: the responses delivered, first one first (30_encoding.md R84). Log entry 14. -/
  responses : List Response
  /-- MODEL'S OWN: the environment's answers to come (20_memory.md R56). Log entry 2. -/
  env       : Env
  /-- MODEL'S OWN: the bus trace, first event first (20_memory.md R50). Log entry 14. -/
  trace     : List BusEvent
  /-- MODEL'S OWN: a reset event is due (70_reset_and_hazards.md R210). Log entry 4. -/
  resetReq  : Bool
deriving DecidableEq, Repr

/-- The state right after reset under the parameters `c` (10_state.md R35, 70_reset_and_hazards.md R211). `LADDR` and
`LDEV` have no value in the spec; the model names zero and the empty string (log entry 5). -/
def State.resetOf (c : Config) : State where
  cfg       := c
  img       := Img.ofByte c.layout c.imgReset
  isOpen    := false
  excl      := Config.exclReset
  addr      := Config.addrReset
  dev       := some Config.devReset
  laddr     := 0x00#8
  ldev      := []
  seq       := .idle
  host      := []
  responses := []
  env       := { opens := [], writes := [], reads := [], drawn := 0 }
  trace     := []
  resetReq  := false

/-- The state right after reset, default parameters. -/
def State.reset : State := State.resetOf Config.default

end Sys2Proof.Machine
end

