-- ==== Sys2Proof/Machine/Flags.lean ====
section
/-! DEFINITION. Results and their accumulation (00_scope.md R10, R11), the status byte (30_encoding.md R79, R80), the
response (R84, R85), the lifecycle state (10_state.md R27). -/

namespace Sys2Proof.Machine

/-! ### Results -/

/-- `acc(r, s)`: the last failure (00_scope.md R11). -/
def acc (r s : Result) : Result :=
  match s with
  | .ok => r
  | .err f => .err f

/-- What `open()` makes of the answer to `BusOpen` (40_bus_transport.md R100). -/
def openResult : OpenAnswer → Result
  | .ok => .ok
  | .addrFail => .err .addressingFailure
  | .ioFail c => .err (.ioFailure c)

/-- `io` of an answer to `MemWrite` (00_scope.md R10). -/
def writeResult : WriteAnswer → Result
  | .ok => .ok
  | .ioFail c => .err (.ioFailure c)

/-- `io` of an answer to `MemRead` (00_scope.md R10). -/
def readResult : ReadAnswer → Result
  | .byte _ => .ok
  | .ioFail c => .err (.ioFailure c)

/-! ### The status byte -/

/-- `BUSY` = `SR[7]` (30_encoding.md R79). -/
def busyOf (sr : Byte) : Bool := sr.getLsbD 7

/-- `AC` = `SR[6:0]` (30_encoding.md R79). -/
def acOf (sr : Byte) : BitVec 7 := sr.extractLsb' 0 7

/-- `ROW` = 2 if `AC >= 0x40`, else 1 (30_encoding.md R80). -/
def rowOf (ac : BitVec 7) : Byte := if Config.row2Base ≤ ac.toNat then 2#8 else 1#8

/-- `COL` = `(AC mod 0x40) + 1`, 1 to 64, no wrap (30_encoding.md R80). -/
def colOf (ac : BitVec 7) : Byte := BitVec.ofNat 8 (ac.toNat % Config.row2Base + 1)

/-! ### The response -/

/-- `OK` with no value. -/
def Response.plain : Response := { result := .ok, data := 0, ac := 0, col := 0, row := 0, out := none }

/-- A failure: no values, no output payload (30_encoding.md R84). -/
def Response.failed (f : Failure) : Response := { Response.plain with result := .err f }

/-- `OK` with `DATA`. -/
def Response.value (v : Byte) : Response := { Response.plain with data := v }

/-- `OK` with the decoded status byte (`GETSTAT`, 42_display_protocol.md R147, 30_encoding.md R84). -/
def Response.status (sr : Byte) : Response :=
  { Response.plain with
      data := sr, ac := (acOf sr).setWidth 8, col := colOf (acOf sr), row := rowOf (acOf sr) }

/-- A one-bit value, zero-extended. -/
def bitByte (b : Bool) : Byte := (BitVec.ofBool b).setWidth 8

/-- What is delivered: when the result is a failure the values are 0 and there is no output payload (30_encoding.md R84). -/
def Response.delivered (r : Response) : Response :=
  match r.result with
  | .ok => r
  | .err f => Response.failed f

/-- `CODE` (30_encoding.md R85). -/
def codeOf : Result → Byte
  | .ok => 0x00#8
  | .err .invalidArgument => 0x01#8
  | .err .deviceUnspecified => 0x02#8
  | .err .addressingFailure => 0x03#8
  | .err .notConnected => 0x04#8
  | .err (.ioFailure _) => 0x05#8
  | .err .busy => 0x06#8

/-- `ECODE`: the originating error code for `IoFailure`, else 0 (30_encoding.md R84). -/
def ecodeOf : Result → ECode
  | .err (.ioFailure c) => c
  | .ok | .err .invalidArgument | .err .deviceUnspecified | .err .addressingFailure | .err .notConnected
  | .err .busy => 0#16

/-- `RESP = {CODE, ECODE, DATA, AC, COL, ROW}` (30_encoding.md R84). -/
def Response.word (r : Response) : RespWord :=
  codeOf r.result ++ ecodeOf r.result ++ r.data ++ r.ac ++ r.col ++ r.row

/-! ### The lifecycle -/

/-- The three lifecycle states (10_state.md R27). -/
inductive Lifecycle where
  | closed
  | openShared
  | openExclusive
deriving DecidableEq, Repr

/-- The lifecycle state as a function of `OPEN` and `EXCL` (10_state.md R27). -/
def State.lifecycle (s : State) : Lifecycle :=
  match s.isOpen, s.excl with
  | false, _ => .closed
  | true, false => .openShared
  | true, true => .openExclusive

end Sys2Proof.Machine
end

