-- ==== Sys2Proof/Machine/Operands.lean ====
section
/-! DEFINITION. The operand forms: nibble split and join (30_encoding.md R77, R78), the set-address byte (R82), the
character selection of LINE (43_display_sequences.md R163). -/

namespace Sys2Proof.Machine

/-- `v[7:4]`, sent first (30_encoding.md R77). -/
def highNibble (v : Byte) : Nibble := v.extractLsb' 4 4

/-- `v[3:0]`, sent second (30_encoding.md R77). -/
def lowNibble (v : Byte) : Nibble := v.extractLsb' 0 4

/-- `SR = {NH, NL}` (30_encoding.md R78). -/
def joinNibbles (nh nl : Nibble) : Byte := nh ++ nl

/-- `OPC_SETDDA | off` at 8 bits (30_encoding.md R82). -/
def setddaByte (off : Byte) : Byte := Config.opcSetdda ||| off

/-- `ENDED` after position `i`: set once the end of the text or a 0x00 byte is reached (43_display_sequences.md R163). -/
def endedAt (ended : Bool) (t : List Byte) (i : Nat) : Bool :=
  ended || decide (t.length ≤ i) || t.getD i 0#8 == 0#8

/-- `char(t, i)` for `n` positions from `i` on (43_display_sequences.md R163). -/
def charsFrom (t : List Byte) : (n i : Nat) → (ended : Bool) → List Byte
  | 0, _, _ => []
  | n + 1, i, ended =>
    (if endedAt ended t i then Config.pad else t.getD i 0#8) :: charsFrom t n (i + 1) (endedAt ended t i)

/-- The 17 data bytes of `LINE` (43_display_sequences.md R162, R163). -/
def lineChars (t : List Byte) : List Byte := charsFrom t Config.lineN 0 false

end Sys2Proof.Machine
end

