-- ==== Sys2Proof/Machine/Ops.lean ====
section
/-! DEFINITION. The named operations: the four bus events (20_memory.md R50 to R55), the procedures as lists of
micro-operations (40_bus_transport.md, 42_display_protocol.md, 43_display_sequences.md), one step of a running
procedure (10_state.md R33), acceptance and delivery, the answer to an illegal command, reset. -/

namespace Sys2Proof.Machine

/-! ### The environment's next answer (20_memory.md R56) -/

/-- The lowest `ECODE_W` bits of a code (00_scope.md R5, R9). -/
def codeOfWidth (c : Config) (e : ECode) : ECode := BitVec.ofNat 16 (e.toNat % 2 ^ c.ecodeW)

/-- A free answer with its code cut to `ECODE_W` bits. -/
def openOfWidth (c : Config) : OpenAnswer → OpenAnswer
  | .ok => .ok
  | .addrFail => .addrFail
  | .ioFail e => .ioFail (codeOfWidth c e)

/-- A free answer with its code cut to `ECODE_W` bits. -/
def writeOfWidth (c : Config) : WriteAnswer → WriteAnswer
  | .ok => .ok
  | .ioFail e => .ioFail (codeOfWidth c e)

/-- A free answer with its code cut to `ECODE_W` bits. -/
def readOfWidth (c : Config) : ReadAnswer → ReadAnswer
  | .byte v => .byte v
  | .ioFail e => .ioFail (codeOfWidth c e)

/-- The answer to the next `BusOpen`. -/
def Env.takeOpen (c : Config) (v : Env) : OpenAnswer × Env :=
  match v.opens with
  | a :: as => (a, { v with opens := as })
  | [] => (openOfWidth c (Config.freeOpen v.drawn), { v with drawn := v.drawn + 1 })

/-- The answer to the next `MemWrite`. -/
def Env.takeWrite (c : Config) (v : Env) : WriteAnswer × Env :=
  match v.writes with
  | a :: as => (a, { v with writes := as })
  | [] => (writeOfWidth c (Config.freeWrite v.drawn), { v with drawn := v.drawn + 1 })

/-- The answer to the next `MemRead`. -/
def Env.takeRead (c : Config) (v : Env) : ReadAnswer × Env :=
  match v.reads with
  | a :: as => (a, { v with reads := as })
  | [] => (readOfWidth c (Config.freeRead v.drawn), { v with drawn := v.drawn + 1 })

/-! ### Named updates of the state -/

/-- `IMG.F <- v`. -/
def State.stage (f : Stage) (s : State) : State := { s with img := s.img.stage f }

/-- One more event in the bus trace, and the environment after its answer. -/
def State.record (e : BusEvent) (v : Env) (s : State) : State :=
  { s with trace := s.trace ++ [e], env := v }

/-- `OPEN <- 1; LDEV <- DEV; LADDR <- ADDR` (40_bus_transport.md R100, 10_state.md R29). -/
def State.bind (name : List Byte) (s : State) : State :=
  { s with isOpen := true, ldev := name, laddr := s.addr }

/-- The procedure goes on at `k`. -/
def State.park (k : List Op) (w : Work) (s : State) : State :=
  { s with seq := .running { w with todo := k } }

/-- The response is delivered and the sequencer becomes idle (10_state.md R33, 30_encoding.md R84). -/
def State.answered (r : Response) (s : State) : State :=
  { s with responses := s.responses ++ [r.delivered], seq := .idle }

/-! ### Bus events -/

/-- `BusOpen(name, ADDR)` and what its answer does: `ok` binds the connection (20_memory.md R51, 40_bus_transport.md R100). -/
def State.busOpen (name : List Byte) (s : State) : Result × State :=
  match s.env.takeOpen s.cfg with
  | (.ok, v) => (openResult .ok, (s.record (.opened name s.addr .ok) v).bind name)
  | (a, v) => (openResult a, s.record (.opened name s.addr a) v)

/-- `BusClose()`, and `OPEN <- 0` (20_memory.md R52, 40_bus_transport.md R101). -/
def State.busClose (s : State) : State :=
  { s.record .closed s.env with isOpen := false }

/-- `io(MemWrite(LADDR, 1, IMG))`: the whole image, to the live target (20_memory.md R53, R55). -/
def State.memWrite (s : State) : Result × State :=
  match s.env.takeWrite s.cfg with
  | (a, v) => (writeResult a, s.record (.wrote s.ldev s.laddr (s.img.byte s.cfg.layout) a) v)

/-- `MemRead(LADDR, 1)`: changes nothing of the block (20_memory.md R54, R55). -/
def State.memRead (s : State) : ReadAnswer × State :=
  match s.env.takeRead s.cfg with
  | (a, v) => (a, s.record (.sampled s.ldev s.laddr a) v)

/-! ### Working registers -/

/-- `RES <- acc(RES, r)`. -/
def Work.addResult (r : Result) (w : Work) : Work :=
  { w with resp := { w.resp with result := acc w.resp.result r } }

/-- The result of a `writeRegister()` goes to its destination. -/
def Work.report (d : Dest) (r : Result) (w : Work) : Work :=
  match d with
  | .discard => w
  | .result => w.addResult r
  | .read => { w with rd := acc w.rd r }

/-- A sample: `N[k] <- v.D` for `byte(v)`, else `RES <- acc(RES, io(s))` (40_bus_transport.md R104). -/
def Work.sampled (l : Layout) (h : Half) (a : ReadAnswer) (w : Work) : Work :=
  match a, h with
  | .byte v, .high => { w with nh := dField l v }
  | .byte v, .low => { w with nl := dField l v }
  | .ioFail c, _ => w.report .read (readResult (.ioFail c))

/-- `readRegister()` returned `OK` with `SR`: `RDREG` answers it, `GETSTAT` answers it decoded, a poll drops it. -/
def Work.statusRead (u : ReadUse) (sr : Byte) (w : Work) : Work :=
  match u with
  | .rdreg => { w with resp := { Response.value sr with result := w.resp.result } }
  | .getstat => { w with resp := { Response.status sr with result := w.resp.result } }
  | .poll => w

/-! ### The procedures -/

/-- `if PREWRITE: writeRegister()` with its result to `d` (42_display_protocol.md R140, 40_bus_transport.md R104). -/
def prewriteOps (c : Config) (d : Dest) : List Op := if c.prewrite then [.writeReg d] else []

/-- `stageNibble(n)` (42_display_protocol.md R140). -/
def stageNibbleOps (c : Config) (n : Nibble) : List Op := .stage (.d n) :: prewriteOps c .discard

/-- `latch()` (40_bus_transport.md R103), its result to `d`. -/
def latchOps (d : Dest) : List Op :=
  [.stage (.e true), .writeReg d, .stage (.e false), .writeReg d]

/-- `writeByte(rs, v)` (42_display_protocol.md R141). -/
def writeByteOps (c : Config) (rs : Bool) (v : Byte) : List Op :=
  [.stage (.rs rs), .stage (.rw false)]
    ++ stageNibbleOps c (highNibble v) ++ latchOps .discard
    ++ stageNibbleOps c (lowNibble v) ++ latchOps .discard
    ++ [.readStart .poll]

/-- `rawNibble(n)` (42_display_protocol.md R148), its result to the command's `RES`. -/
def rawNibbleOps (c : Config) (n : Nibble) : List Op :=
  [.stage (.rs false), .stage (.rw false)] ++ stageNibbleOps c n ++ latchOps .result

/-- `readRegister()` after its first write (40_bus_transport.md R104). -/
def readTail (c : Config) (u : ReadUse) : List Op :=
  (if c.prewrite then [.stage (.e true), .writeReg .read] else [])
    ++ [.sample .high, .stage (.e false), .writeReg .read]
    ++ (.stage (.d 0xF#4) :: prewriteOps c .read)
    ++ [.stage (.e true), .writeReg .read, .sample .low, .stage (.e false), .writeReg .read, .readEnd u]

/-- The six steps of `initialize()` after its `open()`, and its `close()` (43_display_sequences.md R160). -/
def initOps (c : Config) : List Op :=
  writeByteOps c false c.opcFunc8 ++ rawNibbleOps c c.nibTo4 ++ writeByteOps c false c.opcFunc4
    ++ writeByteOps c false c.opcClear ++ writeByteOps c false c.opcHome ++ writeByteOps c false c.opcCursor
    ++ [.closeConn]

/-- `displayLine(off, t)` after its `open()` (43_display_sequences.md R162). -/
def lineOps (c : Config) (off : Byte) (t : List Byte) : List Op :=
  writeByteOps c false (setddaByte off) ++ (lineChars t).flatMap (writeByteOps c true) ++ [.closeConn]

/-! ### A running procedure -/

/-- Whether the busy-poll reads the status again after `SR` (42_display_protocol.md R142): as long as it is busy, since
`POLL_CAP` sets no bound. -/
def pollsAgain (cap : PollCap) (sr : Byte) : Bool :=
  match cap with
  | .none => busyOf sr

/-- `readRegister()` with `OPEN` = 1, up to and with its first write (40_bus_transport.md R104): stage the read pattern,
and the strobe too unless `PREWRITE` writes the image first. `RES <- OK` is R104's own; that `NH` and `NL` are 0 until they are
sampled is the MODEL'S CHOICE (DESIGN CHOICE, log entry 13): they are read only after both samples gave a byte. -/
def startRead (u : ReadUse) (k : List Op) (w : Work) (s : State) : State :=
  let s1 := ((s.stage (.rs false)).stage (.rw true)).stage (.d 0xF#4)
  let s2 := if s.cfg.prewrite then s1 else s1.stage (.e true)
  let a := s2.memWrite
  a.2.park (readTail s.cfg u ++ k) { w with rd := acc .ok a.1, nh := 0#4, nl := 0#4 }

/-- One step of a running procedure (10_state.md R33): the next bus event together with the state updates before it, or,
when no event is left, the rest of the updates and the response. -/
def advance : List Op → Work → State → Host.Outcome State Fault Refusal
  | [], w, s => .next (s.answered w.resp)
  | .stage f :: k, w, s => advance k w (s.stage f)
  | .openConn :: k, w, s =>
    if s.isOpen then advance k w s
    else match s.dev with
      | none => .next (s.answered (w.addResult (.err .deviceUnspecified)).resp)
      | some name => match s.busOpen name with
        | (.ok, s1) => .next (s1.park k w)
        | (.err f, s1) => .next (s1.park [] (w.addResult (.err f)))
  | .closeConn :: k, w, s =>
    if s.isOpen && !s.excl then .next (s.busClose.park k w) else advance k w s
  | .writeReg d :: k, w, s =>
    if s.isOpen then .next (s.memWrite.2.park k (w.report d s.memWrite.1))
    else match s.dev with
      | none => advance k (w.report d (.err .deviceUnspecified)) s
      | some name => match s.busOpen name with
        | (.ok, s1) => .next (s1.park (.sendTransient d :: .closeConn :: k) w)
        | (.err f, s1) => .next (s1.park k (w.report d (.err f)))
  | .sendTransient d :: k, w, s =>
    if s.isOpen then .next (s.memWrite.2.park k (w.report d s.memWrite.1))
    else .fault .transferWithoutConnection
  | .readStart u :: k, w, s =>
    if s.isOpen then .next (startRead u k w s)
    else advance k (w.addResult (.err .notConnected)) s
  | .sample h :: k, w, s =>
    if s.isOpen then .next (s.memRead.2.park k (w.sampled s.cfg.layout h s.memRead.1))
    else .fault .transferWithoutConnection
  | .readEnd u :: k, w, s =>
    match w.rd with
    | .err f => advance k (w.addResult (.err f)) s
    | .ok =>
      if u = .poll ∧ pollsAgain s.cfg.pollCap (joinNibbles w.nh w.nl) then
        if s.isOpen then .next (startRead .poll k w s)
        else advance k (w.addResult (.err .notConnected)) s
      else advance k (w.statusRead u (joinNibbles w.nh w.nl)) s

/-! ### Accepting a command -/

/-- The working registers when a command is accepted (10_state.md R30: nothing is carried over from the one before). The
spec gives them no value before they are written (R35): that `NH` and `NL` are 0 and the status read's `RES` is `OK` here is
the MODEL'S CHOICE (DESIGN CHOICE, log entry 13); each is written before it is read. -/
def Work.fresh (k : List Op) (r : Response) : Work := { todo := k, resp := r, rd := .ok, nh := 0#4, nl := 0#4 }

/-- A command is accepted: its procedure is about to run (10_state.md R33). -/
def State.accept (k : List Op) (s : State) : State :=
  { s with seq := .running (Work.fresh k Response.plain) }

/-- A command that needs no bus event is accepted: its response is ready (log entry 1). -/
def State.acceptWith (r : Response) (s : State) : State :=
  { s with seq := .running (Work.fresh [] r) }

/-- An illegal command: no state change, no bus event, answered `InvalidArgument` (30_encoding.md R86). -/
def State.acceptIllegal (s : State) : State := s.acceptWith (Response.failed .invalidArgument)

/-! ### Reset -/

/-- The reset event (70_reset_and_hazards.md R210, R211): all state of the block to its reset value, no bus event; the
host's and the environment's fields are not the block's and stay. Log entry 4. -/
def State.resetEvent (s : State) : State :=
  { State.resetOf s.cfg with
      host := s.host, responses := s.responses, env := s.env, trace := s.trace }

end Sys2Proof.Machine
end

