-- ==== Sys2Proof/Machine/BusTransport.lean ====
section
/-! DEFINITION. The Bus Transport commands (40_bus_transport.md): OPEN, CLOSE, WRREG, LATCH, RDREG. Each meaning accepts
the command; its procedure then runs one bus event a step (10_state.md R33). -/

namespace Sys2Proof.Machine

/-- `OPEN` (R100). -/
def execOpenBus (s : State) : Host.Outcome State Fault Refusal := .next (s.accept [.openConn])

/-- `CLOSE` (R101). -/
def execCloseBus (s : State) : Host.Outcome State Fault Refusal := .next (s.accept [.closeConn])

/-- `WRREG` (R102). -/
def execWrreg (s : State) : Host.Outcome State Fault Refusal := .next (s.accept [.writeReg .result])

/-- `LATCH` (R103). -/
def execLatch (s : State) : Host.Outcome State Fault Refusal := .next (s.accept (latchOps .result))

/-- `RDREG` (R104). -/
def execRdreg (s : State) : Host.Outcome State Fault Refusal := .next (s.accept [.readStart .rdreg])

end Sys2Proof.Machine
end

