-- ==== Sys2Proof/Machine/ConfigAccess.lean ====
section
/-! DEFINITION. The configuration access commands (41_config_access.md): SETBL, GETBL, SETEXCL, GETEXCL, SETADDR,
GETADDR, SETDEV, GETDEV. Only SETBL reaches the bus. -/

namespace Sys2Proof.Machine

/-- `SETBL f` (R120): `IMG.BL <- f; return writeRegister()`. -/
def execSetbl (f : Bool) (s : State) : Host.Outcome State Fault Refusal :=
  .next (s.accept [.stage (.bl f), .writeReg .result])

/-- `GETBL` (R121). -/
def execGetbl (s : State) : Host.Outcome State Fault Refusal :=
  .next (s.acceptWith (Response.value (bitByte s.img.bl)))

/-- `SETEXCL f` (R122): the flag and nothing else. -/
def execSetexcl (f : Bool) (s : State) : Host.Outcome State Fault Refusal :=
  .next ({ s with excl := f }.acceptWith Response.plain)

/-- `GETEXCL` (R123). -/
def execGetexcl (s : State) : Host.Outcome State Fault Refusal :=
  .next (s.acceptWith (Response.value (bitByte s.excl)))

/-- `SETADDR a` (R124): every value is stored. -/
def execSetaddr (a : Byte) (s : State) : Host.Outcome State Fault Refusal :=
  .next ({ s with addr := a }.acceptWith Response.plain)

/-- `GETADDR` (R125): `ADDR`, not `LADDR`. -/
def execGetaddr (s : State) : Host.Outcome State Fault Refusal :=
  .next (s.acceptWith (Response.value s.addr))

/-- `SETDEV p` (R126): the name, or none. -/
def execSetdev (p : Payload) (s : State) : Host.Outcome State Fault Refusal :=
  .next ({ s with dev := p }.acceptWith Response.plain)

/-- `GETDEV` (R127): `DEV` as the output payload. -/
def execGetdev (s : State) : Host.Outcome State Fault Refusal :=
  .next (s.acceptWith { Response.plain with out := s.dev })

end Sys2Proof.Machine
end

