-- ==== Sys2Proof/Machine/DisplayBytes.lean ====
section
/-! DEFINITION. The Display Protocol byte commands (42_display_protocol.md): WRBYTE, CLEAR, HOME, SETDDA, CURSMODE,
GETSTAT. -/

namespace Sys2Proof.Machine

/-- `WRBYTE rs, v` (R141). -/
def execWrbyte (rs : Bool) (v : Byte) (s : State) : Host.Outcome State Fault Refusal :=
  .next (s.accept (writeByteOps s.cfg rs v))

/-- `CLEAR` (R143). -/
def execClear (s : State) : Host.Outcome State Fault Refusal :=
  .next (s.accept (writeByteOps s.cfg false s.cfg.opcClear))

/-- `HOME` (R144). -/
def execHome (s : State) : Host.Outcome State Fault Refusal :=
  .next (s.accept (writeByteOps s.cfg false s.cfg.opcHome))

/-- `SETDDA off` (R145): `writeByte(0, 0x80 | off)`. -/
def execSetdda (off : Byte) (s : State) : Host.Outcome State Fault Refusal :=
  .next (s.accept (writeByteOps s.cfg false (setddaByte off)))

/-- `CURSMODE` (R146). -/
def execCursmode (s : State) : Host.Outcome State Fault Refusal :=
  .next (s.accept (writeByteOps s.cfg false s.cfg.opcCursor))

/-- `GETSTAT` (R147). -/
def execGetstat (s : State) : Host.Outcome State Fault Refusal := .next (s.accept [.readStart .getstat])

end Sys2Proof.Machine
end

