-- ==== Sys2Proof/Machine/DisplaySequences.lean ====
section
/-! DEFINITION. The Display Protocol sequences (43_display_sequences.md): INIT, LINE. -/

namespace Sys2Proof.Machine

/-- `INIT` (R160). -/
def execInit (s : State) : Host.Outcome State Fault Refusal := .next (s.accept (.openConn :: initOps s.cfg))

/-- `LINE off, t` (R162): an absent text is answered `InvalidArgument` before anything else. -/
def execLine (off : Byte) (t : Payload) (s : State) : Host.Outcome State Fault Refusal :=
  match t with
  | none => .next (s.acceptWith (Response.failed .invalidArgument))
  | some bs => .next (s.accept (.openConn :: lineOps s.cfg off bs))

end Sys2Proof.Machine
end

