-- ==== Sys2Proof/Machine/Dispatch.lean ====
section
/-! DEFINITION. One arm per command: its meaning. -/

namespace Sys2Proof.Machine

def exec (i : Instr) (s : State) : Host.Outcome State Fault Refusal :=
  match i with
  | .openBus => Sys2Proof.Machine.execOpenBus s
  | .closeBus => Sys2Proof.Machine.execCloseBus s
  | .wrreg => Sys2Proof.Machine.execWrreg s
  | .latch => Sys2Proof.Machine.execLatch s
  | .rdreg => Sys2Proof.Machine.execRdreg s
  | .setbl f => Sys2Proof.Machine.execSetbl f s
  | .getbl => Sys2Proof.Machine.execGetbl s
  | .setexcl f => Sys2Proof.Machine.execSetexcl f s
  | .getexcl => Sys2Proof.Machine.execGetexcl s
  | .setaddr a => Sys2Proof.Machine.execSetaddr a s
  | .getaddr => Sys2Proof.Machine.execGetaddr s
  | .setdev p => Sys2Proof.Machine.execSetdev p s
  | .getdev => Sys2Proof.Machine.execGetdev s
  | .init => Sys2Proof.Machine.execInit s
  | .wrbyte rs v => Sys2Proof.Machine.execWrbyte rs v s
  | .clear => Sys2Proof.Machine.execClear s
  | .home => Sys2Proof.Machine.execHome s
  | .setdda off => Sys2Proof.Machine.execSetdda off s
  | .cursmode => Sys2Proof.Machine.execCursmode s
  | .line off t => Sys2Proof.Machine.execLine off t s
  | .getstat => Sys2Proof.Machine.execGetstat s

end Sys2Proof.Machine
end

