-- ==== Sys2Proof/Machine/Step.lean ====
section
/-! DEFINITION. One step of the block (10_state.md R33): a reset event that is due; the next event or the response of the
running command; the acceptance of the host's next command when idle; or nothing, while the block waits. -/

namespace Sys2Proof.Machine

/-- The step. -/
def step (s : State) : Host.Outcome State Fault Refusal :=
  if s.resetReq then .next s.resetEvent
  else match s.seq with
    | .running w => advance w.todo w s
    | .idle => match s.host with
      | [] => .next s
      | p :: ps => match decode s.cfg p with
        | .ok i => exec i { s with host := ps }
        | .illegal _ => .next { s with host := ps }.acceptIllegal

/-- `s` with the table word `w` as the next command the host presents, no payload, and the block ready to accept it.
Log entry 20. -/
def State.withFetchWord (s : State) (nbits w : Nat) : State :=
  { s with
      host := { cw := BitVec.ofNat 24 (w % 2 ^ nbits), payload := none } :: s.host
      seq := .idle
      resetReq := false }

end Sys2Proof.Machine
end

