-- ==== Sys2Proof/Machine/Procedures.lean ====
section
/-! DEFINITION. The spec's pseudocode as it stands, each procedure ONE function of the state before it (40_bus_transport.md
to 43_display_sequences.md). The block itself (`step`) runs a procedure one bus event at a time (10_state.md R33); these
functions are what the statements compare it with. The busy-poll is unbounded (42_display_protocol.md R142), so a
procedure that polls takes a count of polls and answers `none` when they are used up: the procedure has not returned. -/

namespace Sys2Proof.Machine

/-! ### Bus Transport (40_bus_transport.md) -/

/-- `proc open()` (R100). -/
def procOpen (s : State) : Result × State :=
  if s.isOpen then (.ok, s)
  else match s.dev with
    | none => (.err .deviceUnspecified, s)
    | some name => s.busOpen name

/-- `proc close()` (R101); its result is always `OK`. -/
def procClose (s : State) : State := if s.isOpen && !s.excl then s.busClose else s

/-- `proc writeRegister()` (R102). -/
def procWriteRegister (s : State) : Result × State :=
  if s.isOpen then s.memWrite
  else match procOpen s with
    | (.err f, s1) => (.err f, s1)
    | (.ok, s1) => (s1.memWrite.1, procClose s1.memWrite.2)

/-- `proc latch()` (R103). -/
def procLatch (s : State) : Result × State :=
  let r1 := procWriteRegister (s.stage (.e true))
  let r2 := procWriteRegister (r1.2.stage (.e false))
  (acc r1.1 r2.1, r2.2)

/-- `if PREWRITE: RES <- acc(RES, writeRegister())` (R104). -/
def procPrewrite (res : Result) (s : State) : Result × State :=
  if s.cfg.prewrite then (acc res (procWriteRegister s).1, (procWriteRegister s).2) else (res, s)

/-- One turn of the loop of `readRegister()` (R104): `RES`, the nibble (0 where no byte was sampled), the state. -/
def procReadNibble (res : Result) (s : State) : Result × Nibble × State :=
  let p := procPrewrite res (s.stage (.d 0xF#4))
  let h := procWriteRegister (p.2.stage (.e true))
  let m := h.2.memRead
  let l := procWriteRegister (m.2.stage (.e false))
  match m.1 with
  | .byte v => (acc (acc p.1 h.1) l.1, dField s.cfg.layout v, l.2)
  | .ioFail c => (acc (acc (acc p.1 h.1) (readResult (.ioFail c))) l.1, 0#4, l.2)

/-- `proc readRegister()` (R104): the result, `SR` (of use when the result is `OK`), the state. -/
def procReadRegister (s : State) : Result × Byte × State :=
  if s.isOpen then
    let hi := procReadNibble .ok ((s.stage (.rs false)).stage (.rw true))
    let lo := procReadNibble hi.1 hi.2.2
    (lo.1, joinNibbles hi.2.1 lo.2.1, lo.2.2)
  else (.err .notConnected, 0#8, s)

/-! ### Display Protocol (42_display_protocol.md) -/

/-- `proc stageNibble(n)` (R140). -/
def procStageNibble (n : Nibble) (s : State) : State :=
  if s.cfg.prewrite then (procWriteRegister (s.stage (.d n))).2 else s.stage (.d n)

/-- The busy-poll of `writeByte()` (R142), at most `fuel` status reads. -/
def procPoll : (fuel : Nat) → State → Option (Result × State)
  | 0, _ => none
  | fuel + 1, s =>
    match procReadRegister s with
    | (.err f, _, s1) => some (.err f, s1)
    | (.ok, sr, s1) => if busyOf sr then procPoll fuel s1 else some (.ok, s1)

/-- The two latch cycles of `writeByte(rs, v)` (R141), their results dropped. -/
def procTwoLatches (rs : Bool) (v : Byte) (s : State) : State :=
  let s1 := (procLatch (procStageNibble (highNibble v) ((s.stage (.rs rs)).stage (.rw false)))).2
  (procLatch (procStageNibble (lowNibble v) s1)).2

/-- `proc writeByte(rs, v)` (R141). -/
def procWriteByte (fuel : Nat) (rs : Bool) (v : Byte) (s : State) : Option (Result × State) :=
  procPoll fuel (procTwoLatches rs v s)

/-- `proc rawNibble(n)` (R148). -/
def procRawNibble (n : Nibble) (s : State) : Result × State :=
  procLatch (procStageNibble n ((s.stage (.rs false)).stage (.rw false)))

/-- `RES <- acc(RES, writeByte(rs, v))` for each byte in turn (43_display_sequences.md R160, R162). -/
def procBytes (fuel : Nat) (rs : Bool) : List Byte → Result × State → Option (Result × State)
  | [], p => some p
  | v :: vs, p =>
    match procWriteByte fuel rs v p.2 with
    | none => none
    | some q => procBytes fuel rs vs (acc p.1 q.1, q.2)

/-! ### Sequences (43_display_sequences.md) -/

/-- The six steps of `initialize()` (R160). -/
def procInitSteps (fuel : Nat) (s : State) : Option (Result × State) :=
  match procBytes fuel false [s.cfg.opcFunc8] (.ok, s) with
  | none => none
  | some p =>
    let q := procRawNibble s.cfg.nibTo4 p.2
    procBytes fuel false [s.cfg.opcFunc4, s.cfg.opcClear, s.cfg.opcHome, s.cfg.opcCursor] (acc p.1 q.1, q.2)

/-- `proc initialize()` (R160). -/
def procInitialize (fuel : Nat) (s : State) : Option (Result × State) :=
  match procOpen s with
  | (.err f, s1) => some (.err f, s1)
  | (.ok, s1) => (procInitSteps fuel s1).map fun p => (p.1, procClose p.2)

/-- The address byte and the data bytes of `displayLine(off, t)` (R162). -/
def procLineBytes (fuel : Nat) (off : Byte) (t : List Byte) (s : State) : Option (Result × State) :=
  match procBytes fuel false [setddaByte off] (.ok, s) with
  | none => none
  | some p => procBytes fuel true (lineChars t) p

/-- `proc displayLine(off, t)` (R162). -/
def procDisplayLine (fuel : Nat) (off : Byte) (t : Payload) (s : State) : Option (Result × State) :=
  match t with
  | none => some (.err .invalidArgument, s)
  | some bs =>
    match procOpen s with
    | (.err f, s1) => some (.err f, s1)
    | (.ok, s1) => (procLineBytes fuel off bs s1).map fun p => (p.1, procClose p.2)

/-! ### The commands -/

/-- A response that carries a result and no value. -/
def Response.ofResult (r : Result) : Response := { Response.plain with result := r }

/-- A command that returns only a result. -/
def plainly (p : Result × State) : Response × State := (Response.ofResult p.1, p.2)

/-- The command's procedure, its response and the state after it (before the response is delivered), with at most
`fuel` status reads in each busy-poll. -/
def procCommand (fuel : Nat) (i : Instr) (s : State) : Option (Response × State) :=
  match i with
  | .openBus      => some (plainly (procOpen s))
  | .closeBus     => some (Response.plain, procClose s)
  | .wrreg        => some (plainly (procWriteRegister s))
  | .latch        => some (plainly (procLatch s))
  | .rdreg        =>
    match procReadRegister s with
    | (.ok, sr, s1) => some (Response.value sr, s1)
    | (.err f, _, s1) => some (Response.failed f, s1)
  | .setbl f      => some (plainly (procWriteRegister (s.stage (.bl f))))
  | .getbl        => some (Response.value (bitByte s.img.bl), s)
  | .setexcl f    => some (Response.plain, { s with excl := f })
  | .getexcl      => some (Response.value (bitByte s.excl), s)
  | .setaddr a    => some (Response.plain, { s with addr := a })
  | .getaddr      => some (Response.value s.addr, s)
  | .setdev p     => some (Response.plain, { s with dev := p })
  | .getdev       => some ({ Response.plain with out := s.dev }, s)
  | .init         => (procInitialize fuel s).map plainly
  | .wrbyte rs v  => (procWriteByte fuel rs v s).map plainly
  | .clear        => (procWriteByte fuel false s.cfg.opcClear s).map plainly
  | .home         => (procWriteByte fuel false s.cfg.opcHome s).map plainly
  | .setdda off   => (procWriteByte fuel false (setddaByte off) s).map plainly
  | .cursmode     => (procWriteByte fuel false s.cfg.opcCursor s).map plainly
  | .line off t   => (procDisplayLine fuel off t s).map plainly
  | .getstat      =>
    match procReadRegister s with
    | (.ok, sr, s1) => some (Response.status sr, s1)
    | (.err f, _, s1) => some (Response.failed f, s1)

end Sys2Proof.Machine
end

