-- ==== Sys2Proof/Safety.lean ====
section
/-! DEFINITION. What the claims speak of: running the command that has been accepted, the invariant of every run, and
which command can return which result. -/

namespace Sys2Proof.Machine

/-- At most `n` steps of the command in progress: the run stops where the sequencer is idle, that is right after the
response (10_state.md R33). -/
def drive : Nat → State → Host.Outcome State Fault Refusal
  | 0, s => .next s
  | n + 1, s =>
    match s.seq with
    | .idle => .next s
    | .running _ =>
      match step s with
      | .next t => drive n t
      | .fault f => .fault f
      | .refused r => .refused r

/-! ### The invariant -/

/-- A device name that can be bound: 1 to `DEVNAME_MAX` bytes (10_state.md R28). -/
def nameOk (c : Config) (name : List Byte) : Bool := decide (1 ≤ name.length) && decide (name.length ≤ c.devNameMax)

/-- Whether a connection is surely held after a micro-operation, when `held` says so before it. -/
def heldAfter (held : Bool) : Op → Bool
  | .openConn => true
  | .closeConn => false
  | .stage _ | .writeReg _ | .sendTransient _ | .readStart _ | .sample _ | .readEnd _ => held

/-- The two micro-operations that transfer without opening first. -/
def needsConnection : Op → Bool
  | .sendTransient _ | .sample _ => true
  | .stage _ | .openConn | .closeConn | .writeReg _ | .readStart _ | .readEnd _ => false

/-- Every transfer of the list finds a connection held (20_memory.md R53, R54). -/
def connectionOk : Bool → List Op → Bool
  | _, [] => true
  | held, op :: k => (!needsConnection op || held) && connectionOk (heldAfter held op) k

/-- The list goes on with a `writeRegister()`. -/
def writesNext : List Op → Bool
  | .writeReg _ :: _ => true
  | _ => false

/-- From strobe level `e`: every change of `E` is followed at once by a write, no procedure starts a status read or gives
up an `open()` with the strobe raised, and the strobe ends low (10_state.md R22 (a), R31 (b)). -/
def strobeOk : Bool → List Op → Bool
  | e, [] => !e
  | e, op :: k =>
    match op with
    | .stage (.e b) => writesNext k && strobeOk b k
    | .readStart _ | .readEnd _ | .openConn => !e && strobeOk false k
    | .stage _ | .closeConn | .writeReg _ | .sendTransient _ | .sample _ => strobeOk e k

/-- An error code of `ECODE_W` bits (00_scope.md R5, R9). -/
def codeFits (c : Config) (e : ECode) : Bool := decide (e.toNat < 2 ^ c.ecodeW)

/-- A result a command can have: not the reserved one (60_exceptions.md R186), and a code of `ECODE_W` bits (00_scope.md
R10). -/
def resultFits (c : Config) : Result → Bool
  | .err .busy => false
  | .err (.ioFailure e) => codeFits c e
  | .ok | .err .invalidArgument | .err .deviceUnspecified | .err .addressingFailure | .err .notConnected => true

/-- The answers the environment holds ready carry codes of `ECODE_W` bits (00_scope.md R9). -/
def answersFit (c : Config) (v : Env) : Bool :=
  v.opens.all (fun a => resultFits c (openResult a)) && v.writes.all (fun a => resultFits c (writeResult a)) &&
    v.reads.all fun a => resultFits c (readResult a)

/-- The sequencer position fits the rest of the state. -/
def seqOk (s : State) : Bool :=
  match s.seq with
  | .idle => !s.img.e
  | .running w =>
    connectionOk s.isOpen w.todo && strobeOk s.img.e w.todo && resultFits s.cfg w.resp.result && resultFits s.cfg w.rd

/-- The invariant of every run: legal parameters (00_scope.md R5), a legal device name (10_state.md R28) also in the live
binding (R29), a consistent position (R22, R31), no `Busy` delivered (60_exceptions.md R186), and every originating error code
of `ECODE_W` bits (00_scope.md R9, R10). -/
def invOk (s : State) : Bool :=
  s.cfg.legal && s.dev.nameLegal s.cfg && (!s.isOpen || nameOk s.cfg s.ldev) &&
    s.responses.all (fun r => resultFits s.cfg r.result) && answersFit s.cfg s.env && seqOk s

/-- The invariant. -/
abbrev Inv (s : State) : Prop := invOk s = true

/-! ### Results -/

/-- Results of a command that may have to open the connection and write (60_exceptions.md R187). -/
def writeResultOk : Result → Bool
  | .ok | .err .deviceUnspecified | .err .addressingFailure | .err (.ioFailure _) => true
  | .err .invalidArgument | .err .notConnected | .err .busy => false

/-- Results of a command that only reads the status or ends in a poll (60_exceptions.md R187). -/
def statusResultOk : Result → Bool
  | .ok | .err .notConnected | .err (.ioFailure _) => true
  | .err .invalidArgument | .err .deviceUnspecified | .err .addressingFailure | .err .busy => false

/-- The table of 60_exceptions.md R187. -/
def mayReturn (i : Instr) (r : Result) : Bool :=
  match i with
  | .openBus | .wrreg | .latch | .setbl _ | .init => writeResultOk r
  | .closeBus | .getbl | .getexcl | .getaddr | .getdev | .setexcl _ | .setaddr _ | .setdev _ => decide (r = .ok)
  | .rdreg | .getstat | .wrbyte _ _ | .clear | .home | .setdda _ | .cursmode => statusResultOk r
  | .line _ _ => writeResultOk r || decide (r = .err .invalidArgument)

/-! ### Traces in words of the spec -/

/-- The `MemWrite` events, all answered `ok`, of the bytes `vs` at the target `(name, a)`. -/
def writesOf (name : List Byte) (a : Byte) (vs : List Byte) : List BusEvent := vs.map fun v => .wrote name a v .ok

/-- The four bytes of the two latch cycles of `writeByte(rs, v)` with backlight bit `bl` (42_display_protocol.md R149 (b)),
under the layout `l`. -/
def latchBytes (l : Layout) (bl rs : Bool) (v : Byte) : List Byte :=
  [ Img.byte l { rs := rs, rw := false, e := true,  bl := bl, d := highNibble v },
    Img.byte l { rs := rs, rw := false, e := false, bl := bl, d := highNibble v },
    Img.byte l { rs := rs, rw := false, e := true,  bl := bl, d := lowNibble v },
    Img.byte l { rs := rs, rw := false, e := false, bl := bl, d := lowNibble v } ]

/-- The byte of the status-read pattern (30_encoding.md R76), strobe high or low. -/
def patternByte (l : Layout) (bl e : Bool) : Byte := Img.byte l { rs := false, rw := true, e := e, bl := bl, d := 0xF#4 }

/-- One status read, every transfer answered, samples `v1` and `v2` (40_bus_transport.md R104, `PREWRITE` false). -/
def statusReadTrace (l : Layout) (bl : Bool) (name : List Byte) (a v1 v2 : Byte) : List BusEvent :=
  [ .wrote name a (patternByte l bl true) .ok, .sampled name a (.byte v1), .wrote name a (patternByte l bl false) .ok,
    .wrote name a (patternByte l bl true) .ok, .sampled name a (.byte v2), .wrote name a (patternByte l bl false) .ok ]

/-- One `writeByte(rs, v)` in a held connection with polls whose sample pairs are `ps` (42_display_protocol.md R149 (a)). -/
def writeByteTrace (l : Layout) (bl : Bool) (name : List Byte) (a : Byte) (rs : Bool) (v : Byte)
    (ps : List (Byte × Byte)) : List BusEvent :=
  writesOf name a (latchBytes l bl rs v) ++ ps.flatMap fun p => statusReadTrace l bl name a p.1 p.2

/-- The assembled status byte of a pair of samples says busy (30_encoding.md R78, R79). -/
def pairBusy (l : Layout) (p : Byte × Byte) : Bool := busyOf (joinNibbles (dField l p.1) (dField l p.2))

/-- The last failure of a list of results, `OK` if there is none (00_scope.md R11). -/
def lastFailure (rs : List Result) : Result := rs.foldl acc .ok

/-- What a status read returns when its four writes are answered `w1` to `w4` and its two samples `r1` and `r2`: the last
failure in the order of the events (40_bus_transport.md R104). -/
def statusReadResult (w1 : WriteAnswer) (r1 : ReadAnswer) (w2 w3 : WriteAnswer) (r2 : ReadAnswer) (w4 : WriteAnswer) : Result :=
  lastFailure [writeResult w1, readResult r1, writeResult w2, writeResult w3, readResult r2, writeResult w4]

/-- The nibble an answer to `MemRead` gives (30_encoding.md R78); none is read from a failure. -/
def answerNibble (l : Layout) : ReadAnswer → Nibble
  | .byte v => dField l v
  | .ioFail _ => 0#4

/-- The response of a command whose status read returned `r`, and whose answer to the assembled byte is `k`. -/
def statusResponse (r : Result) (k : Response) : Response :=
  match r with
  | .ok => k
  | .err f => Response.failed f

/-- The samples of a list of status reads, as answers. -/
def pairAnswers (ps : List (Byte × Byte)) : List ReadAnswer := ps.flatMap fun p => [.byte p.1, .byte p.2]

/-- The two writes of the raw nibble of `INIT`, answered `x1` and `x2` (42_display_protocol.md R148). -/
def rawNibbleTrace (l : Layout) (bl : Bool) (name : List Byte) (a : Byte) (n : Nibble) (x1 x2 : WriteAnswer) : List BusEvent :=
  [ .wrote name a (Img.byte l { rs := false, rw := false, e := true, bl := bl, d := n }) x1,
    .wrote name a (Img.byte l { rs := false, rw := false, e := false, bl := bl, d := n }) x2 ]

/-! ### What the environment answers in the course of a procedure (a connection held, `PREWRITE` false) -/

/-- The answers to one status read, in the order of its events (40_bus_transport.md R104). -/
structure ReadPlay where
  w1 : WriteAnswer
  r1 : ReadAnswer
  w2 : WriteAnswer
  w3 : WriteAnswer
  r2 : ReadAnswer
  w4 : WriteAnswer
deriving DecidableEq, Repr

/-- The answers to its writes. -/
def ReadPlay.writes (p : ReadPlay) : List WriteAnswer := [p.w1, p.w2, p.w3, p.w4]

/-- The answers to its samples. -/
def ReadPlay.reads (p : ReadPlay) : List ReadAnswer := [p.r1, p.r2]

/-- What the status read returns. -/
def ReadPlay.result (p : ReadPlay) : Result := statusReadResult p.w1 p.r1 p.w2 p.w3 p.r2 p.w4

/-- It returns `OK` and a busy status: the poll goes on (42_display_protocol.md R142). -/
def ReadPlay.busy (l : Layout) (p : ReadPlay) : Bool :=
  decide (p.result = .ok) && busyOf (joinNibbles (answerNibble l p.r1) (answerNibble l p.r2))

/-- Its events. -/
def ReadPlay.trace (l : Layout) (bl : Bool) (name : List Byte) (a : Byte) (p : ReadPlay) : List BusEvent :=
  [ .wrote name a (patternByte l bl true) p.w1, .sampled name a p.r1, .wrote name a (patternByte l bl false) p.w2,
    .wrote name a (patternByte l bl true) p.w3, .sampled name a p.r2, .wrote name a (patternByte l bl false) p.w4 ]

/-- The answers to one `writeByte()`: to its four latch writes, to the polls that find the controller busy, and to the
status read that ends it (42_display_protocol.md R141, R142). -/
structure BytePlay where
  a1    : WriteAnswer
  a2    : WriteAnswer
  a3    : WriteAnswer
  a4    : WriteAnswer
  polls : List ReadPlay
  last  : ReadPlay
deriving DecidableEq, Repr

/-- Its polls are busy and its last status read is not: it fails, or the controller is ready. -/
def BytePlay.ends (l : Layout) (p : BytePlay) : Bool := p.polls.all (ReadPlay.busy l) && !p.last.busy l

/-- The answers to its writes. -/
def BytePlay.writes (p : BytePlay) : List WriteAnswer :=
  p.a1 :: p.a2 :: p.a3 :: p.a4 :: (p.polls ++ [p.last]).flatMap ReadPlay.writes

/-- The answers to its samples. -/
def BytePlay.reads (p : BytePlay) : List ReadAnswer := (p.polls ++ [p.last]).flatMap ReadPlay.reads

/-- The events of `writeByte(rs, v)`. -/
def BytePlay.trace (l : Layout) (bl : Bool) (name : List Byte) (a : Byte) (rs : Bool) (v : Byte) (p : BytePlay) :
    List BusEvent :=
  List.zipWith (fun b x => BusEvent.wrote name a b x) (latchBytes l bl rs v) [p.a1, p.a2, p.a3, p.a4] ++
    (p.polls ++ [p.last]).flatMap (ReadPlay.trace l bl name a)

/-- `open()` succeeds (40_bus_transport.md R100): it finds a connection held and does nothing, or it finds none and its
`BusOpen` is answered `ok`. The target is then `(name, a)`, the answers to later opens are `os`, its events are `tr`. -/
def openSucceeds (s : State) (name : List Byte) (a : Byte) (os : List OpenAnswer) (tr : List BusEvent) : Prop :=
  (s.isOpen = true ∧ name = s.ldev ∧ a = s.laddr ∧ os = s.env.opens ∧ tr = []) ∨
    (s.isOpen = false ∧ s.dev = some name ∧ a = s.addr ∧ s.env.opens = .ok :: os ∧ tr = [.opened name a .ok])

/-- The events of the `close()` at the end of a sequence that holds a connection: none in exclusive mode
(40_bus_transport.md R101). -/
def closeTrace (excl : Bool) : List BusEvent := if excl then [] else [.closed]

/-- The byte of the most recent `MemWrite` of a bus trace, whatever its answer (10_state.md R22 (b)). -/
def lastWritten (tr : List BusEvent) : Option Byte :=
  tr.foldl (fun last e => match e with | .wrote _ _ v _ => some v | .opened _ _ _ | .closed | .sampled _ _ _ => last) none

end Sys2Proof.Machine
end

