-- ==== Sys2Proof/Certificates/Slice0/Obligations.lean ====
section
/-! DEFINITION. The statements for the provers. Each docstring names the rules of spec/ it rests on; where a clause is the
spec's own decision (D<n>) or the model's choice (log entry <n>), it says so. -/

open Sys2Proof Sys2Proof.Machine

/-! ## Encoding -/

/-- Decoding what the host presents for a well-formed command gives the command back, for every command, every operand
and every parameter value (30_encoding.md sections 1 and 7; the command word is decision D14). -/
def Obligations.DecodeOfEncodeIsTheCommand : Prop :=
  ∀ (c : Config) (i : Instr), i.wellFormed c = true → decode c (encode i) = .ok i

/-- A presented word and payload have one meaning: what decodes to a command is that command's encoding, and the command
is well-formed (30_encoding.md sections 1 and 7; D14). -/
def Obligations.DecodableWordIsTheEncodingOfItsCommand : Prop :=
  ∀ (c : Config) (p : PortCmd) (i : Instr), decode c p = .ok i → encode i = p ∧ i.wellFormed c = true

/-- Words of 95_test_vectors.md T16 decode to the commands they stand for (decision D14). -/
def Obligations.VectorWordsDecodeAsListed : Prop :=
  decode Config.default { cw := 0x010000#24, payload := none } = .ok .openBus ∧
  decode Config.default { cw := 0x0A0100#24, payload := none } = .ok (.setexcl true) ∧
  decode Config.default { cw := 0x0C2700#24, payload := none } = .ok (.setaddr 0x27#8) ∧
  decode Config.default { cw := 0x110148#24, payload := none } = .ok (.wrbyte true 0x48#8) ∧
  decode Config.default { cw := 0x144000#24, payload := none } = .ok (.setdda 0x40#8) ∧
  decode Config.default { cw := 0x164000#24, payload := some [0x48#8, 0x69#8] } = .ok (.line 0x40#8 (some [0x48#8, 0x69#8]))

/-- The decoder accepts exactly what a row of the opcode table takes: the word under the row's mask and the payload in the
row's form (30_encoding.md section 1, R73, R86; decisions D14, D16). -/
def Obligations.DecoderAcceptsExactlyTheOpcodeTable : Prop :=
  ∀ (c : Config) (p : PortCmd),
    (∃ i, decode c p = .ok i) ↔
      ∃ r ∈ opcodeTable, r.hits p.cw = true ∧ r.payload.takes c p.payload = true

/-- The row of a command's mnemonic is the row its word hits, and no word hits two rows (30_encoding.md R73, whose
"no two rows overlap" the spec marks as derived). -/
def Obligations.OneTableRowPerWord : Prop :=
  (∀ i : Instr, ∃ r ∈ opcodeTable, r.mnemonic = i.mnemonic ∧ r.hits (encode i).cw = true) ∧
  (∀ (w : CmdWord), ∀ r ∈ opcodeTable, ∀ q ∈ opcodeTable, r.hits w = true → q.hits w = true → r = q)

/-! ## The step -/

/-- An idle block with no reset due takes the host's next command off the port and runs exactly it: the step is `exec` of
the decoded command (10_state.md R33 and 30_encoding.md R70: decisions D23, D19; the host's list is log entry 3). -/
def Obligations.StepRunsTheDecodedCommand : Prop :=
  ∀ (s : State) (p : PortCmd) (ps : List PortCmd) (i : Instr),
    s.resetReq = false → s.seq = .idle → s.host = p :: ps → decode s.cfg p = .ok i →
      step s = exec i { s with host := ps }

/-- A command that does not decode is answered `InvalidArgument`, changes no state and causes no bus event, in every idle
state (30_encoding.md R86: decision D16). -/
def Obligations.IllegalCommandIsAnsweredWithoutEffect : Prop :=
  ∀ (s : State) (p : PortCmd) (ps : List PortCmd) (e : DecodeError),
    s.resetReq = false → s.seq = .idle → s.host = p :: ps → decode s.cfg p = .illegal e →
      ∃ t, step s = .next t ∧
        drive 1 t = .next { s with
          host := ps, responses := s.responses ++ [Response.failed .invalidArgument] }

/-- A running command lets no other command in: the host's commands stay where they are, whatever the step does
(30_encoding.md R70, 70_reset_and_hazards.md R224: decision D19), and a response is delivered exactly when the sequencer
becomes idle (30_encoding.md R84: decision D15). -/
def Obligations.RunningBlockTakesNoCommand : Prop :=
  ∀ (s t : State) (w : Work), s.resetReq = false → s.seq = .running w → step s = .next t →
    t.host = s.host ∧
    ((∃ w', t.seq = .running w' ∧ t.responses = s.responses) ∨
      (t.seq = .idle ∧ ∃ r, t.responses = s.responses ++ [r]))

/-- The reset event, at any time, gives every field of the block its reset value, causes no bus event and leaves the
parameters, the host's commands, the responses and the environment (70_reset_and_hazards.md R210, R211: decision D17;
`LADDR` and `LDEV` by log entry 5, the request by log entry 4). -/
def Obligations.ResetEventGivesTheResetState : Prop :=
  ∀ s : State, s.resetReq = true →
    ∃ t, step s = .next t ∧
      t.img = Img.ofByte s.cfg.layout s.cfg.imgReset ∧ t.isOpen = false ∧ t.excl = false ∧ t.addr = 0x27#8 ∧
      t.dev = some Config.devReset ∧ t.laddr = 0x00#8 ∧ t.ldev = [] ∧ t.seq = .idle ∧ t.resetReq = false ∧
      t.trace = s.trace ∧ t.cfg = s.cfg ∧ t.host = s.host ∧ t.responses = s.responses ∧ t.env = s.env

/-- The state after reset: Closed, exclusive flag off, address 0x27, device `/dev/i2c-1`, idle, the image 0x00
(10_state.md R35; the image and "idle" are decision D17). -/
def Obligations.ResetStateIsTheSpecs : Prop :=
  State.reset.isOpen = false ∧ State.reset.excl = false ∧ State.reset.lifecycle = .closed ∧
  State.reset.addr = 0x27#8 ∧
  State.reset.dev = some [0x2F#8, 0x64#8, 0x65#8, 0x76#8, 0x2F#8, 0x69#8, 0x32#8, 0x63#8, 0x2D#8, 0x31#8] ∧
  State.reset.seq = .idle ∧ State.reset.img.byte State.reset.cfg.layout = 0x00#8

/-! ## Invariants and whole-machine rules -/

/-- The invariant holds right after reset, for every legal choice of the parameters. -/
def Obligations.InvariantHoldsAtReset : Prop :=
  ∀ c : Config, c.legal = true → Inv (State.resetOf c)

/-- Every step keeps the invariant: the strobe is low whenever the sequencer is idle and every change of it is followed at
once by a write (10_state.md R22, R31), transfers find a connection (20_memory.md R53, R54), device names stay legal
(10_state.md R28, R29), `Busy` is never delivered (60_exceptions.md R186) and an originating error code has `ECODE_W` bits
(00_scope.md R9, R10; log entry 12: at most 16). -/
def Obligations.EveryStepKeepsTheInvariant : Prop :=
  ∀ s t : State, Inv s → step s = .next t → Inv t

/-- In every state that meets the invariant the block has a next step, whatever the environment answers (20_memory.md R56). -/
def Obligations.InvariantStatesHaveANextStep : Prop :=
  ∀ s : State, Inv s → ∃ t, step s = .next t

/-- A step issues at most one bus event and takes none back: the bus trace is a total order that only grows (20_memory.md
R62; one event a step is decision D23). -/
def Obligations.StepIssuesAtMostOneBusEvent : Prop :=
  ∀ s t : State, step s = .next t → t.trace = s.trace ∨ ∃ e, t.trace = s.trace ++ [e]

/-- Every transfer happens with `OPEN` = 1 and goes to the live target `(LDEV, LADDR)`, and a `MemWrite` sends the whole
image as it is at that moment (20_memory.md R53, R54, R55, 10_state.md R29, R21; log entry 7 for the packing). -/
def Obligations.TransfersReachTheLiveTarget : Prop :=
  ∀ s t : State, step s = .next t →
    (∀ name a v x, t.trace = s.trace ++ [BusEvent.wrote name a v x] →
      s.isOpen = true ∧ name = s.ldev ∧ a = s.laddr ∧ v = t.img.byte t.cfg.layout) ∧
    (∀ name a x, t.trace = s.trace ++ [BusEvent.sampled name a x] →
      s.isOpen = true ∧ name = s.ldev ∧ a = s.laddr)

/-- `BusOpen` is issued only with `OPEN` = 0, for the configured name and address; answered `ok` it makes them the live
binding and sets `OPEN`, answered otherwise it leaves `OPEN` = 0 and the binding (20_memory.md R51, 10_state.md R29: decision D9).
That `OPEN` and the binding are set in the step of the `BusOpen` itself is the model's choice (log entry 17, DEDUCED). -/
def Obligations.BusOpenBindsTheConfiguredTarget : Prop :=
  ∀ (s t : State) (name : List Byte) (a : Byte) (x : OpenAnswer),
    step s = .next t → t.trace = s.trace ++ [BusEvent.opened name a x] →
      s.isOpen = false ∧ s.dev = some name ∧ a = s.addr ∧
      (x = .ok → t.isOpen = true ∧ t.ldev = name ∧ t.laddr = a) ∧
      (x ≠ .ok → t.isOpen = false ∧ t.ldev = s.ldev ∧ t.laddr = s.laddr)

/-- `BusClose` is issued only with `OPEN` = 1 and `EXCL` = 0, and releases the connection (20_memory.md R52). That `OPEN` is
cleared in the step of the `BusClose` itself is the model's choice (log entry 17, DEDUCED). -/
def Obligations.BusCloseNeedsSharedMode : Prop :=
  ∀ s t : State, step s = .next t → t.trace = s.trace ++ [BusEvent.closed] →
    s.isOpen = true ∧ s.excl = false ∧ t.isOpen = false

/-- `OPEN` is set only by a successful `BusOpen` and cleared only by a `BusClose` (10_state.md R24), and the live binding
changes only when it is set (R29), in every step that is no reset event (the reset event is decision D17). That the flag
and the binding change in the very step of the event is the model's choice (log entry 17, DEDUCED). -/
def Obligations.OpenFlagFollowsTheBusEvents : Prop :=
  ∀ s t : State, s.resetReq = false → step s = .next t →
    (s.isOpen = false → t.isOpen = true → ∃ name a, t.trace = s.trace ++ [BusEvent.opened name a .ok]) ∧
    (s.isOpen = true → t.isOpen = false → t.trace = s.trace ++ [BusEvent.closed]) ∧
    (t.ldev ≠ s.ldev ∨ t.laddr ≠ s.laddr → ∃ name a, t.trace = s.trace ++ [BusEvent.opened name a .ok])

/-- `EXCL`, `ADDR` and `DEV` are written only by `SETEXCL`, `SETADDR` and `SETDEV`: a step that is no reset event and
changes one of them is the acceptance of that command, with that value (10_state.md R25, R26, R28; when the write happens
is log entry 1). The parameters never change (log entry 22). -/
def Obligations.SettingsAreWrittenOnlyByTheirSetters : Prop :=
  ∀ s t : State, s.resetReq = false → step s = .next t →
    t.cfg = s.cfg ∧
    (t.excl ≠ s.excl → ∃ p ps, s.seq = .idle ∧ s.host = p :: ps ∧ decode s.cfg p = .ok (.setexcl t.excl)) ∧
    (t.addr ≠ s.addr → ∃ p ps, s.seq = .idle ∧ s.host = p :: ps ∧ decode s.cfg p = .ok (.setaddr t.addr)) ∧
    (t.dev ≠ s.dev → ∃ p ps, s.seq = .idle ∧ s.host = p :: ps ∧ decode s.cfg p = .ok (.setdev t.dev))

/-- A change of the strobe is written at once: with a connection held, the step that changes `E` ends in a `MemWrite` of
the new image; with none held it ends in the `BusOpen` of that write, and where this succeeds the next step is the
`MemWrite` of the same image; with no device name there is no event (10_state.md R22 (a), which the spec marks as derived,
40_bus_transport.md R102). -/
def Obligations.StrobeChangesAreWrittenAtOnce : Prop :=
  ∀ s t : State, Inv s → s.resetReq = false → step s = .next t → t.img.e ≠ s.img.e →
    (s.isOpen = true →
      ∃ x, t.trace = s.trace ++ [BusEvent.wrote s.ldev s.laddr (t.img.byte t.cfg.layout) x]) ∧
    (s.isOpen = false → s.dev = none → t.trace = s.trace) ∧
    (∀ name, s.isOpen = false → s.dev = some name →
      ∃ a, t.trace = s.trace ++ [BusEvent.opened name s.addr a] ∧
        (a = .ok → ∃ u x, step t = .next u ∧ u.img = t.img ∧
          u.trace = t.trace ++ [BusEvent.wrote name s.addr (t.img.byte t.cfg.layout) x]))

/-- Once a command is accepted, the sequencer delivers at most one response, of a kind that 60_exceptions.md R187 (marked
derived) lists for the command; `Busy` is in no row (R186). -/
def Obligations.ResponsesFollowTheResultTable : Prop :=
  ∀ (i : Instr) (s t v : State) (n : Nat), s.resetReq = false →
    exec i s = .next t → drive n t = .next v → v.seq = .idle →
      ∃ r, v.responses = s.responses ++ [r] ∧ mayReturn i r.result = true

/-! ## Every command runs its procedure -/

/-- The block runs the spec's pseudocode: for every command and every state, if the command's procedure returns, then the
command is accepted and the run ends with the procedure's state and response (40_bus_transport.md to
43_display_sequences.md, the pseudocode of each rule with the decisions D4 to D13 it carries; 10_state.md R33: D23). The state
of a procedure that closes keeps `LDEV` and `LADDR` (log entry 5, DESIGN CHOICE). -/
def Obligations.SequencerRunsTheProcedure : Prop :=
  ∀ (i : Instr) (s : State) (fuel : Nat) (r : Response) (u : State), s.resetReq = false →
    procCommand fuel i s = some (r, u) →
      ∃ t, exec i s = .next t ∧ ∃ n, drive n t = .next (u.answered r)

/-- And it returns only as the pseudocode does: when the run of an accepted command reaches idle, the procedure returns,
with that state and that response; so a procedure that never returns hangs the block (42_display_protocol.md R142). The state
of a procedure that closes keeps `LDEV` and `LADDR` (log entry 5, DESIGN CHOICE). -/
def Obligations.SequencerReturnsOnlyAsTheProcedure : Prop :=
  ∀ (i : Instr) (s t v : State) (n : Nat), s.resetReq = false →
    exec i s = .next t → drive n t = .next v → v.seq = .idle →
      ∃ fuel r u, procCommand fuel i s = some (r, u) ∧ v = u.answered r

/-- No command ever stops with a fault or a refusal, at any point of its run (60_exceptions.md, opening: a failure is a
result, not a trap). -/
def Obligations.CommandsNeverStop : Prop :=
  ∀ (i : Instr) (s : State), ∃ t, exec i s = .next t ∧ ∀ n, ∃ v, drive n t = .next v

/-! ## Bus Transport -/

/-- `OPEN` in every state: a no-op if a connection is held; `DeviceUnspecified` with no device name; else one `BusOpen`
and what its answer says (40_bus_transport.md R100: the order of the checks and the state after a failed attempt are
decision D9). Everything else is unchanged. -/
def Obligations.OpenAcquiresTheConnection : Prop :=
  ∀ s : State, s.resetReq = false →
    ∃ t, exec .openBus s = .next t ∧
      drive 2 t = .next (
        if s.isOpen then s.answered Response.plain
        else match s.dev with
          | none => s.answered (Response.failed .deviceUnspecified)
          | some name => match s.env.takeOpen s.cfg with
            | (.ok, v) =>
              { s with isOpen := true, ldev := name, laddr := s.addr, env := v,
                       trace := s.trace ++ [BusEvent.opened name s.addr .ok] }.answered Response.plain
            | (.addrFail, v) =>
              { s with env := v, trace := s.trace ++ [BusEvent.opened name s.addr .addrFail] }.answered
                (Response.failed .addressingFailure)
            | (.ioFail c, v) =>
              { s with env := v, trace := s.trace ++ [BusEvent.opened name s.addr (.ioFail c)] }.answered
                (Response.failed (.ioFailure c)))

/-- `CLOSE` in every state: with `OPEN` = 1 and `EXCL` = 0 one `BusClose` and `OPEN` = 0, else nothing; always `OK`
(40_bus_transport.md R101; the case `OPEN` = 0 the spec marks as derived). Everything else is unchanged: that this takes in
`LDEV` and `LADDR` after the `BusClose` is log entry 5 (DESIGN CHOICE; 95_test_vectors.md T5 row 9 lists them so). -/
def Obligations.CloseReleasesUnlessExclusive : Prop :=
  ∀ s : State, s.resetReq = false →
    ∃ t, exec .closeBus s = .next t ∧
      drive 2 t = .next (
        if s.isOpen = true ∧ s.excl = false
        then { s with isOpen := false, trace := s.trace ++ [BusEvent.closed] }.answered Response.plain
        else s.answered Response.plain)

/-- `WRREG` with a connection held is one transfer of the image and nothing else; with none held and a successful open it
is open, transfer, close, the close left out in exclusive mode; with a failing open nothing is sent (40_bus_transport.md
R102: the close honours the flag by decision D10). Everything else is unchanged. That `LDEV` and `LADDR` keep the binding of
a transient connection after its `BusClose` is log entry 5 (DESIGN CHOICE). -/
def Obligations.WriteRegisterSendsTheImage : Prop :=
  ∀ s : State, s.resetReq = false →
    ∃ t, exec .wrreg s = .next t ∧
      drive 4 t = .next (
        if s.isOpen then
          { s with env := (s.env.takeWrite s.cfg).2,
                   trace := s.trace ++ [BusEvent.wrote s.ldev s.laddr (s.img.byte s.cfg.layout) (s.env.takeWrite s.cfg).1] }.answered
            (Response.ofResult (writeResult (s.env.takeWrite s.cfg).1))
        else match s.dev with
          | none => s.answered (Response.failed .deviceUnspecified)
          | some name => match s.env.takeOpen s.cfg with
            | (.ok, v) =>
              { s with
                  isOpen := s.excl, ldev := name, laddr := s.addr, env := (v.takeWrite s.cfg).2
                  trace := s.trace ++ [BusEvent.opened name s.addr .ok,
                    BusEvent.wrote name s.addr (s.img.byte s.cfg.layout) (v.takeWrite s.cfg).1] ++
                    (if s.excl then [] else [BusEvent.closed]) }.answered
                (Response.ofResult (writeResult (v.takeWrite s.cfg).1))
            | (.addrFail, v) =>
              { s with env := v, trace := s.trace ++ [BusEvent.opened name s.addr .addrFail] }.answered
                (Response.failed .addressingFailure)
            | (.ioFail c, v) =>
              { s with env := v, trace := s.trace ++ [BusEvent.opened name s.addr (.ioFail c)] }.answered
                (Response.failed (.ioFailure c)))

/-- `LATCH` writes the register twice in every state, also when the first write fails, with the strobe raised and then
lowered, and returns the last failure (40_bus_transport.md R103: decision D7); with a connection held these are two
transfers that differ in `E` only. After a transient connection `LDEV` and `LADDR` keep its binding (log entry 5, DESIGN
CHOICE). -/
def Obligations.LatchWritesTheStrobeHighThenLow : Prop :=
  ∀ s : State, s.resetReq = false →
    ∃ t, exec .latch s = .next t ∧
      drive 7 t = .next (
        let r1 := procWriteRegister { s with img := { s.img with e := true } }
        let r2 := procWriteRegister { r1.2 with img := { r1.2.img with e := false } }
        r2.2.answered (Response.ofResult (acc r1.1 r2.1))) ∧
      (s.isOpen = true → ∃ v x y, drive 7 t = .next v ∧ v.img = { s.img with e := false } ∧ v.isOpen = true ∧
        v.trace = s.trace ++
          [BusEvent.wrote s.ldev s.laddr (Img.byte s.cfg.layout { s.img with e := true }) x,
           BusEvent.wrote s.ldev s.laddr (Img.byte s.cfg.layout { s.img with e := false }) y])

/-- `RDREG` and `GETSTAT` with no connection answer `NotConnected`, with no bus event and no change of the image
(40_bus_transport.md R104, 42_display_protocol.md R147, 60_exceptions.md R184). -/
def Obligations.StatusReadNeedsAConnection : Prop :=
  ∀ s : State, s.resetReq = false → s.isOpen = false →
    (∃ t, exec .rdreg s = .next t ∧ drive 1 t = .next (s.answered (Response.failed .notConnected))) ∧
    (∃ t, exec .getstat s = .next t ∧ drive 1 t = .next (s.answered (Response.failed .notConnected)))

/-- `RDREG` and `GETSTAT` with a connection held (`PREWRITE` false): all four writes and both samples happen in their order,
whatever each is answered; the result is the last failure; on success `RDREG` answers the assembled byte and `GETSTAT` the
byte decoded; the image is left at the status-read pattern and nothing else changes (40_bus_transport.md R104,
42_display_protocol.md R147: decisions D4, D5, D6, D7). -/
def Obligations.StatusReadSamplesBothNibbles : Prop :=
  ∀ (s : State) (w1 w2 w3 w4 : WriteAnswer) (ws : List WriteAnswer) (r1 r2 : ReadAnswer) (rs : List ReadAnswer),
    s.resetReq = false → s.isOpen = true → s.cfg.prewrite = false →
    s.env.writes = w1 :: w2 :: w3 :: w4 :: ws → s.env.reads = r1 :: r2 :: rs →
      let l := s.cfg.layout
      let hi := patternByte l s.img.bl true
      let lo := patternByte l s.img.bl false
      let sr := joinNibbles (answerNibble l r1) (answerNibble l r2)
      let v : State :=
        { s with
            img := Img.readPattern s.img.bl
            env := { s.env with writes := ws, reads := rs }
            trace := s.trace ++
              [BusEvent.wrote s.ldev s.laddr hi w1, BusEvent.sampled s.ldev s.laddr r1, BusEvent.wrote s.ldev s.laddr lo w2,
               BusEvent.wrote s.ldev s.laddr hi w3, BusEvent.sampled s.ldev s.laddr r2, BusEvent.wrote s.ldev s.laddr lo w4] }
      (∃ t, exec .rdreg s = .next t ∧
        drive 7 t = .next (v.answered (statusResponse (statusReadResult w1 r1 w2 w3 r2 w4) (Response.value sr)))) ∧
      (∃ t, exec .getstat s = .next t ∧
        drive 7 t = .next (v.answered (statusResponse (statusReadResult w1 r1 w2 w3 r2 w4) (Response.status sr))))

/-! ## Configuration access -/

/-- `SETBL f` stores the bit and runs `writeRegister()`: the bit stays stored whatever the write returns, and the write's
result is the response (41_config_access.md R120: decision D11). After a transient connection `LDEV` and `LADDR` keep its
binding (log entry 5, DESIGN CHOICE). -/
def Obligations.SetBacklightStoresAndSends : Prop :=
  ∀ (s : State) (f : Bool), s.resetReq = false →
    ∃ t, exec (.setbl f) s = .next t ∧
      (let p := procWriteRegister { s with img := { s.img with bl := f } }
       drive 4 t = .next (p.2.answered (Response.ofResult p.1)) ∧ p.2.img = { s.img with bl := f }) ∧
      (s.isOpen = true →
        drive 2 t = .next ({ s with
            img := { s.img with bl := f }, env := (s.env.takeWrite s.cfg).2
            trace := s.trace ++
              [BusEvent.wrote s.ldev s.laddr (Img.byte s.cfg.layout { s.img with bl := f }) (s.env.takeWrite s.cfg).1] }.answered
          (Response.ofResult (writeResult (s.env.takeWrite s.cfg).1))))

/-- `GETBL`: `OK` with the stored backlight bit, no bus event, nothing changed (41_config_access.md R121). -/
def Obligations.GetBacklightAnswersTheBit : Prop :=
  ∀ s : State, s.resetReq = false →
    ∃ t, exec .getbl s = .next t ∧
      drive 1 t = .next (s.answered { Response.plain with data := if s.img.bl then 1#8 else 0#8 })

/-- `GETEXCL`, opcode 0x0B of format `N`: `OK` with the flag zero-extended, no bus event, no failure, nothing changed, whether
or not a connection is held; after reset the flag is 0 (41_config_access.md R123). -/
def Obligations.GetExclusiveAnswersTheFlag : Prop :=
  encode .getexcl = { cw := 0x0B0000#24, payload := none } ∧ State.reset.excl = false ∧
  ∀ s : State, s.resetReq = false →
    ∃ t, exec .getexcl s = .next t ∧
      drive 1 t = .next (s.answered { Response.plain with data := if s.excl then 1#8 else 0#8 })

/-- `GETADDR`, opcode 0x0D of format `N`: `OK` with `ADDR`, not `LADDR`, no bus event, no failure, nothing changed; the two
differ after a `SETADDR` while a connection is held; after reset `ADDR` is 0x27 (41_config_access.md R125). -/
def Obligations.GetAddressAnswersTheConfiguredAddress : Prop :=
  encode .getaddr = { cw := 0x0D0000#24, payload := none } ∧ State.reset.addr = 0x27#8 ∧
  (∀ (s : State) (a : Byte), s.resetReq = false → s.isOpen = true → a ≠ s.laddr →
    ∃ t v, exec (.setaddr a) s = .next t ∧ drive 1 t = .next v ∧ v.isOpen = true ∧ v.addr = a ∧ v.laddr ≠ v.addr) ∧
  ∀ s : State, s.resetReq = false →
    ∃ t, exec .getaddr s = .next t ∧ drive 1 t = .next (s.answered { Response.plain with data := s.addr })

/-- `GETDEV`, opcode 0x0F of format `N`: `OK` with `DEV`, not `LDEV`, as the output payload, absent when no name is
configured, no bus event, no failure, nothing changed; after reset `DEV` is the 10 bytes of `/dev/i2c-1`
(41_config_access.md R127). -/
def Obligations.GetDeviceAnswersTheConfiguredName : Prop :=
  encode .getdev = { cw := 0x0F0000#24, payload := none } ∧
  State.reset.dev = some [0x2F#8, 0x64#8, 0x65#8, 0x76#8, 0x2F#8, 0x69#8, 0x32#8, 0x63#8, 0x2D#8, 0x31#8] ∧
  ∀ s : State, s.resetReq = false →
    ∃ t, exec .getdev s = .next t ∧ drive 1 t = .next (s.answered { Response.plain with out := s.dev })

/-- `SETEXCL f` changes the flag and nothing else: it opens and closes nothing (41_config_access.md R122). -/
def Obligations.SetExclusiveChangesTheFlagOnly : Prop :=
  ∀ (s : State) (f : Bool), s.resetReq = false →
    ∃ t, exec (.setexcl f) s = .next t ∧ drive 1 t = .next ({ s with excl := f }.answered Response.plain)

/-- `SETADDR a` stores any value and does not touch the live binding (41_config_access.md R124). -/
def Obligations.SetAddressStoresAnyByte : Prop :=
  ∀ (s : State) (a : Byte), s.resetReq = false →
    ∃ t, exec (.setaddr a) s = .next t ∧ drive 1 t = .next ({ s with addr := a }.answered Response.plain)

/-- `SETDEV p` stores the name, or none, and does not touch the live binding (41_config_access.md R126: decision D18). -/
def Obligations.SetDeviceStoresTheName : Prop :=
  ∀ (s : State) (p : Payload), s.resetReq = false →
    ∃ t, exec (.setdev p) s = .next t ∧ drive 1 t = .next ({ s with dev := p }.answered Response.plain)

/-- Round trips: after `SETx v` has been answered the next `GETx` answers `v`, for the address, the flag and the device
name, and for the backlight bit whatever its write returned (41_config_access.md R128, marked derived; R120, D11). -/
def Obligations.SettersAndGettersRoundTrip : Prop :=
  ∀ (s : State), s.resetReq = false →
    (∀ a t v, exec (.setaddr a) s = .next t → drive 1 t = .next v →
      ∃ t', exec .getaddr v = .next t' ∧ drive 1 t' = .next (v.answered (Response.value a))) ∧
    (∀ f t v, exec (.setexcl f) s = .next t → drive 1 t = .next v →
      ∃ t', exec .getexcl v = .next t' ∧ drive 1 t' = .next (v.answered (Response.value (bitByte f)))) ∧
    (∀ p t v, exec (.setdev p) s = .next t → drive 1 t = .next v →
      ∃ t', exec .getdev v = .next t' ∧ drive 1 t' = .next (v.answered { Response.plain with out := p })) ∧
    (∀ f t v, exec (.setbl f) s = .next t → drive 4 t = .next v → v.seq = .idle ∧
      ∃ t', exec .getbl v = .next t' ∧ drive 1 t' = .next (v.answered (Response.value (bitByte f))))

/-! ## Display Protocol -/

/-- `WRBYTE rs, v` in a held connection (`PREWRITE` false), for any answers to the four latch writes and any number of busy
polls before the ready one: the events are the four latch bytes, high nibble first, and then exactly the status reads;
the response is `OK`; the image ends at the status-read pattern (42_display_protocol.md R141, R142, R149: the latch
results are dropped by decision D8). -/
def Obligations.WriteByteLatchesTwiceAndPolls : Prop :=
  ∀ (s : State) (rs : Bool) (v : Byte) (w1 w2 w3 w4 : WriteAnswer) (ws : List WriteAnswer)
    (busy : List (Byte × Byte)) (ready : Byte × Byte) (more : List ReadAnswer),
    s.resetReq = false → s.isOpen = true → s.cfg.prewrite = false →
    (∀ p ∈ busy, pairBusy s.cfg.layout p = true) → pairBusy s.cfg.layout ready = false →
    s.env.writes = w1 :: w2 :: w3 :: w4 :: (List.replicate (4 * (busy.length + 1)) .ok ++ ws) →
    s.env.reads = pairAnswers (busy ++ [ready]) ++ more →
      ∃ t, exec (.wrbyte rs v) s = .next t ∧
        drive (4 + 6 * (busy.length + 1) + 1) t = .next ({ s with
          img := Img.readPattern s.img.bl
          env := { s.env with writes := ws, reads := more }
          trace := s.trace ++
            (List.zipWith (fun b x => BusEvent.wrote s.ldev s.laddr b x) (latchBytes s.cfg.layout s.img.bl rs v) [w1, w2, w3, w4]) ++
            ((busy ++ [ready]).flatMap fun (p : Byte × Byte) =>
              statusReadTrace s.cfg.layout s.img.bl s.ldev s.laddr p.1 p.2) }.answered Response.plain)

/-- The poll's other exit: the first failing status read ends `WRBYTE` with its failure, whichever of its four writes or two
samples failed (several: the last), whatever the latch writes are answered and after any number of busy polls; the status
read that fails is carried through (42_display_protocol.md R141, R142, 90_conflicts.md C4; 40_bus_transport.md R104:
decisions D6, D7, D8), here in a held connection with `PREWRITE` false. -/
def Obligations.FailedStatusReadEndsThePoll : Prop :=
  ∀ (s : State) (rs : Bool) (v : Byte) (p : BytePlay) (f : Failure) (ws : List WriteAnswer) (more : List ReadAnswer),
    s.resetReq = false → s.isOpen = true → s.cfg.prewrite = false →
    p.polls.all (ReadPlay.busy s.cfg.layout) = true → p.last.result = .err f →
    s.env.writes = p.writes ++ ws → s.env.reads = p.reads ++ more →
      ∃ t, exec (.wrbyte rs v) s = .next t ∧
        drive (4 + 6 * (p.polls.length + 1) + 1) t = .next ({ s with
          img := Img.readPattern s.img.bl
          env := { s.env with writes := ws, reads := more }
          trace := s.trace ++ p.trace s.cfg.layout s.img.bl s.ldev s.laddr rs v }.answered (Response.failed f))

/-- A busy status never ends the poll: for every bound there is a run of `CLEAR` that has made more status reads than the
bound and is still running, so no cap is built in (42_display_protocol.md R142, 70_reset_and_hazards.md R226: decision D20). -/
def Obligations.BusyControllerIsPolledWithoutBound : Prop :=
  ∀ N : Nat, ∃ s t v : State, ∃ w, Inv s ∧ s.resetReq = false ∧ exec .clear s = .next t ∧
    drive (4 + 6 * N) t = .next v ∧ v.seq = .running w ∧ v.responses = s.responses ∧
    v.trace.length = s.trace.length + (4 + 6 * N)

/-- `CLEAR`, `HOME`, `SETDDA off` and `CURSMODE` run the byte write of their instruction byte with register select 0
(42_display_protocol.md R143 to R146, 30_encoding.md R82; the values of the parameters are decision D3): in a held
connection with the controller ready at the first poll (`PREWRITE` false) the events are the two latch cycles of that byte
and one status read, the response is `OK`. -/
def Obligations.ByteCommandsComplete : Prop :=
  ∀ (s : State) (i : Instr) (x off : Byte) (ws : List WriteAnswer) (ready : Byte × Byte) (more : List ReadAnswer),
    (i = .clear ∧ x = s.cfg.opcClear) ∨ (i = .home ∧ x = s.cfg.opcHome) ∨
      (i = .setdda off ∧ x = (0x80#8 ||| off)) ∨ (i = .cursmode ∧ x = s.cfg.opcCursor) →
    s.resetReq = false → s.isOpen = true → s.cfg.prewrite = false → pairBusy s.cfg.layout ready = false →
    s.env.writes = List.replicate 8 .ok ++ ws → s.env.reads = pairAnswers [ready] ++ more →
      ∃ t, exec i s = .next t ∧
        drive 11 t = .next ({ s with
          img := Img.readPattern s.img.bl
          env := { s.env with writes := ws, reads := more }
          trace := s.trace ++ writeByteTrace s.cfg.layout s.img.bl s.ldev s.laddr false x [ready] }.answered
            Response.plain)

/-- A byte command outside a connection in shared mode sends its two nibbles through four transient connections and is then
answered `NotConnected`, without a poll (42_display_protocol.md R141 corner case (b), marked derived,
70_reset_and_hazards.md R221), here with every event answered `ok` and `PREWRITE` false. That `LDEV` and `LADDR` keep the
binding of the last transient connection is log entry 5 (DESIGN CHOICE). -/
def Obligations.ByteCommandOutsideAConnection : Prop :=
  ∀ (s : State) (rs : Bool) (v : Byte) (name : List Byte) (os : List OpenAnswer) (ws : List WriteAnswer),
    s.resetReq = false → s.isOpen = false → s.excl = false → s.dev = some name → s.cfg.prewrite = false →
    s.env.opens = List.replicate 4 .ok ++ os → s.env.writes = List.replicate 4 .ok ++ ws →
      ∃ t, exec (.wrbyte rs v) s = .next t ∧
        drive 13 t = .next ({ s with
          img := { rs := rs, rw := false, e := false, bl := s.img.bl, d := lowNibble v }
          ldev := name, laddr := s.addr
          env := { s.env with opens := os, writes := ws }
          trace := s.trace ++ (latchBytes s.cfg.layout s.img.bl rs v).flatMap fun b =>
            [BusEvent.opened name s.addr .ok, BusEvent.wrote name s.addr b .ok, BusEvent.closed] }.answered (Response.failed .notConnected))

/-! ## Sequences -/

/-- `INIT` whose `open()` succeeds, or finds a connection held, for any answers to its writes and samples (`PREWRITE` false):
the six steps in order, all of them also after a failing one, then the `close()`, which is a `BusClose` in shared mode, also
where the host had opened the connection, and nothing in exclusive mode; the result is the failure of the last step that
failed, `OK` if none did; the image is left at the status-read pattern (43_display_sequences.md R160, R161: decisions D7,
D12; the bytes are parameters, D3). With no busy poll the steps are 52 events (R165, marked derived). That `LDEV` and `LADDR`
keep the binding after the `BusClose` is log entry 5. -/
def Obligations.InitRunsItsSixSteps : Prop :=
  ∀ (s : State) (name : List Byte) (a : Byte) (os : List OpenAnswer) (opening : List BusEvent)
    (p1 p3 p4 p5 p6 : BytePlay) (n1 n2 : WriteAnswer) (ws : List WriteAnswer) (more : List ReadAnswer),
    s.resetReq = false → s.cfg.prewrite = false → openSucceeds s name a os opening →
    (∀ p ∈ [p1, p3, p4, p5, p6], p.ends s.cfg.layout = true) →
    s.env.writes = p1.writes ++ [n1, n2] ++ p3.writes ++ p4.writes ++ p5.writes ++ p6.writes ++ ws →
    s.env.reads = p1.reads ++ p3.reads ++ p4.reads ++ p5.reads ++ p6.reads ++ more →
      let c := s.cfg
      let bl := s.img.bl
      let events :=
        opening ++ p1.trace c.layout bl name a false c.opcFunc8 ++ rawNibbleTrace c.layout bl name a c.nibTo4 n1 n2 ++
          p3.trace c.layout bl name a false c.opcFunc4 ++ p4.trace c.layout bl name a false c.opcClear ++
          p5.trace c.layout bl name a false c.opcHome ++ p6.trace c.layout bl name a false c.opcCursor ++ closeTrace s.excl
      (∃ t, exec .init s = .next t ∧
        ∃ n, drive n t = .next ({ s with
          img := Img.readPattern s.img.bl
          isOpen := s.excl, ldev := name, laddr := a
          env := { s.env with opens := os, writes := ws, reads := more }
          trace := s.trace ++ events }.answered
            (Response.ofResult (lastFailure
              [p1.last.result, acc (writeResult n1) (writeResult n2), p3.last.result, p4.last.result, p5.last.result,
                p6.last.result])))) ∧
      ((∀ p ∈ [p1, p3, p4, p5, p6], p.polls = []) →
        events.length = opening.length + 52 + (closeTrace s.excl).length)

/-- `LINE off, t` whose `open()` succeeds, or finds a connection held, for every text and any answers to its writes and
samples (`PREWRITE` false): the address byte with register select 0 and exactly 17 data bytes with register select 1, all of
them also after a failing one, then the `close()`, which is a `BusClose` in shared mode, also where the host had opened the
connection, and nothing in exclusive mode; the result is the failure of the last byte that failed, `OK` if none did
(43_display_sequences.md R162, R163, R164: decision D13). With no busy poll the bytes are 180 events (R165, marked derived).
That `LDEV` and `LADDR` keep the binding after the `BusClose` is log entry 5. -/
def Obligations.LineWritesSeventeenBytes : Prop :=
  ∀ (s : State) (off : Byte) (txt : List Byte) (name : List Byte) (a : Byte) (os : List OpenAnswer)
    (opening : List BusEvent) (q : BytePlay) (qs : List BytePlay) (ws : List WriteAnswer) (more : List ReadAnswer),
    s.resetReq = false → s.cfg.prewrite = false → openSucceeds s name a os opening →
    qs.length = 17 → (∀ p ∈ q :: qs, p.ends s.cfg.layout = true) →
    s.env.writes = q.writes ++ qs.flatMap BytePlay.writes ++ ws →
    s.env.reads = q.reads ++ qs.flatMap BytePlay.reads ++ more →
      let l := s.cfg.layout
      let bl := s.img.bl
      let events :=
        opening ++ q.trace l bl name a false (0x80#8 ||| off) ++
          (List.zipWith (fun v p => BytePlay.trace l bl name a true v p) (lineChars txt) qs).flatten ++ closeTrace s.excl
      (∃ t, exec (.line off (some txt)) s = .next t ∧
        ∃ n, drive n t = .next ({ s with
          img := Img.readPattern s.img.bl
          isOpen := s.excl, ldev := name, laddr := a
          env := { s.env with opens := os, writes := ws, reads := more }
          trace := s.trace ++ events }.answered
            (Response.ofResult (lastFailure (q.last.result :: qs.map fun (p : BytePlay) => p.last.result))))) ∧
      ((∀ p ∈ q :: qs, p.polls = []) → events.length = opening.length + 180 + (closeTrace s.excl).length)

/-- `LINE` with an absent text is answered `InvalidArgument` before anything else: no bus event, no state change
(43_display_sequences.md R162: decision D13). -/
def Obligations.LineWithoutTextIsInvalid : Prop :=
  ∀ (s : State) (off : Byte), s.resetReq = false →
    ∃ t, exec (.line off none) s = .next t ∧ drive 1 t = .next (s.answered (Response.failed .invalidArgument))

/-- `INIT` and `LINE` whose `open()` fails return that failure at once: nothing is sent, the image and `OPEN` are unchanged
(43_display_sequences.md R160, R162: decisions D12, D13; 60_exceptions.md R182, R183). -/
def Obligations.SequencesReturnAtOnceWhenOpenFails : Prop :=
  ∀ (s : State) (i : Instr) (off : Byte) (txt : List Byte),
    i = .init ∨ i = .line off (some txt) → s.resetReq = false → s.isOpen = false →
    (s.dev = none →
      ∃ t, exec i s = .next t ∧ drive 1 t = .next (s.answered (Response.failed .deviceUnspecified))) ∧
    (∀ name a v, s.dev = some name → (s.env.takeOpen s.cfg) = (a, v) → a ≠ .ok →
      ∃ t, exec i s = .next t ∧
        drive 2 t = .next ({ s with env := v, trace := s.trace ++ [BusEvent.opened name s.addr a] }.answered
          (Response.ofResult (openResult a))))

/-- The 17 data bytes of `LINE`: position `i` carries the text's byte `i` as long as neither the end of the text nor a 0x00
byte has been reached at or before `i`, and 0x20 from there on; there are exactly 17; bytes from index 17 on are never
looked at (43_display_sequences.md R163). -/
def Obligations.LineCharactersPadWithSpaces : Prop :=
  ∀ t : List Byte,
    (lineChars t).length = 17 ∧
    (∀ i, i < 17 → i < t.length → (∀ j, j ≤ i → t.getD j 0#8 ≠ 0#8) → (lineChars t)[i]? = some (t.getD i 0#8)) ∧
    (∀ i, i < 17 → (t.length ≤ i ∨ ∃ j, j ≤ i ∧ t[j]? = some 0#8) → (lineChars t)[i]? = some 0x20#8) ∧
    (17 ≤ t.length → ∀ extra : List Byte, lineChars (t.take 17 ++ extra) = lineChars t)

/-! ## Encodings of the data -/

/-- Cursor derivation for every address counter 0 to 127: row 2 from 0x40 on, else row 1; column `(AC mod 0x40) + 1`, 1 to
64, neither wrapped nor clamped (30_encoding.md R80). -/
def Obligations.CursorFollowsTheAddressCounter : Prop :=
  ∀ ac : BitVec 7,
    (rowOf ac).toNat = (if 0x40 ≤ ac.toNat then 2 else 1) ∧
    (colOf ac).toNat = ac.toNat % 0x40 + 1 ∧ 1 ≤ (colOf ac).toNat ∧ (colOf ac).toNat ≤ 64

/-- The status byte: bit 7 is the busy flag and bits 6:0 the address counter, and the two make up the byte
(30_encoding.md R79). -/
def Obligations.StatusByteIsBusyAndAddressCounter : Prop :=
  ∀ sr : Byte, busyOf sr = sr.getLsbD 7 ∧ (∀ i, i < 7 → (acOf sr).getLsbD i = sr.getLsbD i) ∧
    sr.toNat = (if busyOf sr then 128 else 0) + (acOf sr).toNat

/-- The set-address byte is `0x80 | off`, and bit 7 of `off` has no effect on it (30_encoding.md R82). -/
def Obligations.SetAddressByteAbsorbsBitSeven : Prop :=
  ∀ off : Byte, setddaByte off = (0x80#8 ||| off) ∧ setddaByte off = setddaByte (off &&& 0x7F#8) ∧
    (setddaByte off).getLsbD 7 = true

/-- `acc(r, s)` is `s` if `s` is a failure, else `r`, so a fold of it yields the last failure of the steps and `OK` exactly
when none failed (00_scope.md R11; its use beyond displayLine is decision D7). -/
def Obligations.AccumulatedResultIsTheLastFailure : Prop :=
  (∀ (r s : Result), acc r s = if s = .ok then r else s) ∧
  (∀ rs : List Result, lastFailure rs = .ok ↔ ∀ r ∈ rs, r = .ok) ∧
  (∀ (before after : List Result) (f : Failure), (∀ r ∈ after, r = .ok) →
    lastFailure (before ++ .err f :: after) = .err f)

/-- Split and join: a byte's two nibbles, high then low, join to the byte, and joined nibbles split back; the sampled byte
counts only through the four bits of field `D` (30_encoding.md R77, R78: the place of the nibble in a sample is decision D6). -/
def Obligations.NibblesSplitAndJoin : Prop :=
  (∀ v : Byte, joinNibbles (highNibble v) (lowNibble v) = v) ∧
  (∀ h n : Nibble, highNibble (joinNibbles h n) = h ∧ lowNibble (joinNibbles h n) = n) ∧
  (∀ v : Byte, dField Layout.default v = highNibble v)

/-- Under every layout that fills the byte the five fields and the byte determine each other (10_state.md R21; the
positions are decision D1). -/
def Obligations.ImageFieldsFillTheByte : Prop :=
  ∀ l : Layout, l.valid = true →
    (∀ g : Img, Img.ofByte l (g.byte l) = g) ∧ (∀ v : Byte, (Img.ofByte l v).byte l = v)

/-- The default layout: `IMG = {D[3:0], BL, E, RW, RS}` (30_encoding.md R74: decision D1), and the status-read pattern is
0xF6 or 0xFE with the strobe high, 0xF2 or 0xFA with it low (R76). -/
def Obligations.DefaultLayoutPacksAsListed : Prop :=
  (∀ g : Img, g.byte Layout.default =
    g.d ++ BitVec.ofBool g.bl ++ BitVec.ofBool g.e ++ BitVec.ofBool g.rw ++ BitVec.ofBool g.rs) ∧
  patternByte Layout.default false true = 0xF6#8 ∧ patternByte Layout.default true true = 0xFE#8 ∧
  patternByte Layout.default false false = 0xF2#8 ∧ patternByte Layout.default true false = 0xFA#8

/-- The response word: `CODE`, `ECODE`, `DATA`, `AC`, `COL`, `ROW` at their places, `CODE` the number of the result's kind,
`ECODE` the code of an `IoFailure` and 0 for every other result; a delivered failure carries no value and no output payload
(30_encoding.md R84, R85: decision D15). -/
def Obligations.ResponseWordCarriesTheFields : Prop :=
  (∀ r : Response,
    r.word.extractLsb' 48 8 =
      (match r.result with
        | .ok => 0x00#8
        | .err .invalidArgument => 0x01#8
        | .err .deviceUnspecified => 0x02#8
        | .err .addressingFailure => 0x03#8
        | .err .notConnected => 0x04#8
        | .err (.ioFailure _) => 0x05#8
        | .err .busy => 0x06#8) ∧
    (∀ c, r.result = .err (.ioFailure c) → r.word.extractLsb' 32 16 = c) ∧
    ((∀ c, r.result ≠ .err (.ioFailure c)) → r.word.extractLsb' 32 16 = 0#16) ∧
    r.word.extractLsb' 24 8 = r.data ∧ r.word.extractLsb' 16 8 = r.ac ∧
    r.word.extractLsb' 8 8 = r.col ∧ r.word.extractLsb' 0 8 = r.row) ∧
  (∀ (r : Response) (f : Failure), r.result = .err f → r.delivered = Response.failed f) ∧
  (∀ r : Response, r.result = .ok → r.delivered = r) ∧
  (∀ c : ECode, (Response.failed (.ioFailure c)).word = 0x05#8 ++ c ++ 0#32)

/-! ## Frames -/

/-- At every point of the run of a command that is no setter: `EXCL`, `ADDR`, `DEV`, the parameters and the host's commands
are as they were (10_state.md R25, R26, R28, 60_exceptions.md R190), the backlight bit too unless the command is `SETBL`
(R23), and so is the whole image for the commands that stage nothing. -/
def Obligations.CommandsLeaveTheOtherRegisters : Prop :=
  ∀ (i : Instr) (s t v : State) (n : Nat), s.resetReq = false → exec i s = .next t → drive n t = .next v →
    v.cfg = s.cfg ∧ v.host = s.host ∧
    ((∀ f, i ≠ .setexcl f) → v.excl = s.excl) ∧
    ((∀ a, i ≠ .setaddr a) → v.addr = s.addr) ∧
    ((∀ p, i ≠ .setdev p) → v.dev = s.dev) ∧
    ((∀ f, i ≠ .setbl f) → v.img.bl = s.img.bl) ∧
    (i = .openBus ∨ i = .closeBus ∨ i = .wrreg ∨ i = .getbl ∨ (∃ f, i = .setexcl f) ∨ i = .getexcl ∨
      (∃ a, i = .setaddr a) ∨ i = .getaddr ∨ (∃ p, i = .setdev p) ∨ i = .getdev → v.img = s.img)

/-- A connection found open is left open, with its binding, by every command but `CLOSE`, `INIT` and `LINE`, and in
exclusive mode by every command (40_bus_transport.md R100 corner cases, R101, R102, 70_reset_and_hazards.md R227). -/
def Obligations.HeldConnectionStaysHeld : Prop :=
  ∀ (i : Instr) (s t v : State) (n : Nat), s.resetReq = false → s.isOpen = true →
    exec i s = .next t → drive n t = .next v →
      (i ≠ .closeBus ∧ i ≠ .init ∧ (∀ off x, i ≠ .line off x)) ∨ (s.excl = true ∧ ∀ f, i ≠ .setexcl f) →
        v.isOpen = true ∧ v.ldev = s.ldev ∧ v.laddr = s.laddr

/-- The mirror part of the image invariant, for a command that finds a connection held or in which every `open()` succeeds
(a device name is configured and each `BusOpen` is answered `ok`): when it has been answered, the byte of the most recent
`MemWrite` is the image as it now stands, or the command has neither changed the image nor written (10_state.md R22 (b),
which the spec marks as derived; whatever the writes are answered). -/
def Obligations.ImageMirrorsTheLastWrite : Prop :=
  ∀ (i : Instr) (s t v : State) (n : Nat) (events : List BusEvent),
    s.resetReq = false → (s.isOpen = true ∨ s.dev ≠ none) →
    exec i s = .next t → drive n t = .next v → v.seq = .idle →
    v.trace = s.trace ++ events → (∀ name a x, BusEvent.opened name a x ∈ events → x = .ok) →
      lastWritten v.trace = some (v.img.byte v.cfg.layout) ∨
        (v.img = s.img ∧ lastWritten v.trace = lastWritten s.trace)
end

