-- ==== Sys2Proof/Laws/Encoding.lean ====
section
/-! SUPPORT. The fields of the command word (30_encoding.md R70). -/

namespace Sys2Proof

@[simp] theorem make_op (op a b : Byte) : (CmdWord.make op a b).op = op := by
  unfold CmdWord.make CmdWord.op
  ext i hi
  simp only [BitVec.getElem_extractLsb', BitVec.getLsbD_append]
  grind

@[simp] theorem make_a (op a b : Byte) : (CmdWord.make op a b).a = a := by
  unfold CmdWord.make CmdWord.a
  ext i hi
  simp only [BitVec.getElem_extractLsb', BitVec.getLsbD_append]
  grind

@[simp] theorem make_b (op a b : Byte) : (CmdWord.make op a b).b = b := by
  unfold CmdWord.make CmdWord.b
  ext i hi
  simp only [BitVec.getElem_extractLsb', BitVec.getLsbD_append]
  grind

/-- A command word is its three fields. -/
theorem make_fields (w : CmdWord) : CmdWord.make w.op w.a w.b = w := by
  unfold CmdWord.make CmdWord.op CmdWord.a CmdWord.b
  ext i hi
  simp only [BitVec.getElem_append, BitVec.getElem_extractLsb']
  grind

/-- A flag operand reads back from bit 0. -/
@[simp] theorem flagByte_bit (f : Bool) : (flagByte f).getLsbD 0 = f := by cases f <;> rfl

/-- A flag operand leaves bits 7:1 zero. -/
@[simp] theorem flagByte_rest (f : Bool) : flagByte f >>> 1 = 0#8 := by cases f <;> rfl

end Sys2Proof
end

