-- ==== Sys2Proof/Laws/State.lean ====
section
/-! SUPPORT. One lemma per field per named update of the state. -/

namespace Sys2Proof.Machine

/-! ### stage -/

@[simp] theorem State.stage_cfg (f : Stage) (s : State) : (s.stage f).cfg = s.cfg := rfl
@[simp] theorem State.stage_img (f : Stage) (s : State) : (s.stage f).img = s.img.stage f := rfl
@[simp] theorem State.stage_isOpen (f : Stage) (s : State) : (s.stage f).isOpen = s.isOpen := rfl
@[simp] theorem State.stage_excl (f : Stage) (s : State) : (s.stage f).excl = s.excl := rfl
@[simp] theorem State.stage_addr (f : Stage) (s : State) : (s.stage f).addr = s.addr := rfl
@[simp] theorem State.stage_dev (f : Stage) (s : State) : (s.stage f).dev = s.dev := rfl
@[simp] theorem State.stage_laddr (f : Stage) (s : State) : (s.stage f).laddr = s.laddr := rfl
@[simp] theorem State.stage_ldev (f : Stage) (s : State) : (s.stage f).ldev = s.ldev := rfl
@[simp] theorem State.stage_seq (f : Stage) (s : State) : (s.stage f).seq = s.seq := rfl
@[simp] theorem State.stage_host (f : Stage) (s : State) : (s.stage f).host = s.host := rfl
@[simp] theorem State.stage_responses (f : Stage) (s : State) : (s.stage f).responses = s.responses := rfl
@[simp] theorem State.stage_env (f : Stage) (s : State) : (s.stage f).env = s.env := rfl
@[simp] theorem State.stage_trace (f : Stage) (s : State) : (s.stage f).trace = s.trace := rfl
@[simp] theorem State.stage_resetReq (f : Stage) (s : State) : (s.stage f).resetReq = s.resetReq := rfl

/-! ### record -/

@[simp] theorem State.record_cfg (e : BusEvent) (v : Env) (s : State) : (s.record e v).cfg = s.cfg := rfl
@[simp] theorem State.record_img (e : BusEvent) (v : Env) (s : State) : (s.record e v).img = s.img := rfl
@[simp] theorem State.record_isOpen (e : BusEvent) (v : Env) (s : State) : (s.record e v).isOpen = s.isOpen := rfl
@[simp] theorem State.record_excl (e : BusEvent) (v : Env) (s : State) : (s.record e v).excl = s.excl := rfl
@[simp] theorem State.record_addr (e : BusEvent) (v : Env) (s : State) : (s.record e v).addr = s.addr := rfl
@[simp] theorem State.record_dev (e : BusEvent) (v : Env) (s : State) : (s.record e v).dev = s.dev := rfl
@[simp] theorem State.record_laddr (e : BusEvent) (v : Env) (s : State) : (s.record e v).laddr = s.laddr := rfl
@[simp] theorem State.record_ldev (e : BusEvent) (v : Env) (s : State) : (s.record e v).ldev = s.ldev := rfl
@[simp] theorem State.record_seq (e : BusEvent) (v : Env) (s : State) : (s.record e v).seq = s.seq := rfl
@[simp] theorem State.record_host (e : BusEvent) (v : Env) (s : State) : (s.record e v).host = s.host := rfl
@[simp] theorem State.record_responses (e : BusEvent) (v : Env) (s : State) : (s.record e v).responses = s.responses := rfl
@[simp] theorem State.record_env (e : BusEvent) (v : Env) (s : State) : (s.record e v).env = v := rfl
@[simp] theorem State.record_trace (e : BusEvent) (v : Env) (s : State) : (s.record e v).trace = s.trace ++ [e] := rfl
@[simp] theorem State.record_resetReq (e : BusEvent) (v : Env) (s : State) : (s.record e v).resetReq = s.resetReq := rfl

/-! ### bind -/

@[simp] theorem State.bind_cfg (n : List Byte) (s : State) : (s.bind n).cfg = s.cfg := rfl
@[simp] theorem State.bind_img (n : List Byte) (s : State) : (s.bind n).img = s.img := rfl
@[simp] theorem State.bind_isOpen (n : List Byte) (s : State) : (s.bind n).isOpen = true := rfl
@[simp] theorem State.bind_excl (n : List Byte) (s : State) : (s.bind n).excl = s.excl := rfl
@[simp] theorem State.bind_addr (n : List Byte) (s : State) : (s.bind n).addr = s.addr := rfl
@[simp] theorem State.bind_dev (n : List Byte) (s : State) : (s.bind n).dev = s.dev := rfl
@[simp] theorem State.bind_laddr (n : List Byte) (s : State) : (s.bind n).laddr = s.addr := rfl
@[simp] theorem State.bind_ldev (n : List Byte) (s : State) : (s.bind n).ldev = n := rfl
@[simp] theorem State.bind_seq (n : List Byte) (s : State) : (s.bind n).seq = s.seq := rfl
@[simp] theorem State.bind_host (n : List Byte) (s : State) : (s.bind n).host = s.host := rfl
@[simp] theorem State.bind_responses (n : List Byte) (s : State) : (s.bind n).responses = s.responses := rfl
@[simp] theorem State.bind_env (n : List Byte) (s : State) : (s.bind n).env = s.env := rfl
@[simp] theorem State.bind_trace (n : List Byte) (s : State) : (s.bind n).trace = s.trace := rfl
@[simp] theorem State.bind_resetReq (n : List Byte) (s : State) : (s.bind n).resetReq = s.resetReq := rfl

/-! ### park -/

@[simp] theorem State.park_cfg (k : List Op) (w : Work) (s : State) : (s.park k w).cfg = s.cfg := rfl
@[simp] theorem State.park_img (k : List Op) (w : Work) (s : State) : (s.park k w).img = s.img := rfl
@[simp] theorem State.park_isOpen (k : List Op) (w : Work) (s : State) : (s.park k w).isOpen = s.isOpen := rfl
@[simp] theorem State.park_excl (k : List Op) (w : Work) (s : State) : (s.park k w).excl = s.excl := rfl
@[simp] theorem State.park_addr (k : List Op) (w : Work) (s : State) : (s.park k w).addr = s.addr := rfl
@[simp] theorem State.park_dev (k : List Op) (w : Work) (s : State) : (s.park k w).dev = s.dev := rfl
@[simp] theorem State.park_laddr (k : List Op) (w : Work) (s : State) : (s.park k w).laddr = s.laddr := rfl
@[simp] theorem State.park_ldev (k : List Op) (w : Work) (s : State) : (s.park k w).ldev = s.ldev := rfl
@[simp] theorem State.park_seq (k : List Op) (w : Work) (s : State) : (s.park k w).seq = .running { w with todo := k } := rfl
@[simp] theorem State.park_host (k : List Op) (w : Work) (s : State) : (s.park k w).host = s.host := rfl
@[simp] theorem State.park_responses (k : List Op) (w : Work) (s : State) : (s.park k w).responses = s.responses := rfl
@[simp] theorem State.park_env (k : List Op) (w : Work) (s : State) : (s.park k w).env = s.env := rfl
@[simp] theorem State.park_trace (k : List Op) (w : Work) (s : State) : (s.park k w).trace = s.trace := rfl
@[simp] theorem State.park_resetReq (k : List Op) (w : Work) (s : State) : (s.park k w).resetReq = s.resetReq := rfl

/-! ### answered -/

@[simp] theorem State.answered_cfg (r : Response) (s : State) : (s.answered r).cfg = s.cfg := rfl
@[simp] theorem State.answered_img (r : Response) (s : State) : (s.answered r).img = s.img := rfl
@[simp] theorem State.answered_isOpen (r : Response) (s : State) : (s.answered r).isOpen = s.isOpen := rfl
@[simp] theorem State.answered_excl (r : Response) (s : State) : (s.answered r).excl = s.excl := rfl
@[simp] theorem State.answered_addr (r : Response) (s : State) : (s.answered r).addr = s.addr := rfl
@[simp] theorem State.answered_dev (r : Response) (s : State) : (s.answered r).dev = s.dev := rfl
@[simp] theorem State.answered_laddr (r : Response) (s : State) : (s.answered r).laddr = s.laddr := rfl
@[simp] theorem State.answered_ldev (r : Response) (s : State) : (s.answered r).ldev = s.ldev := rfl
@[simp] theorem State.answered_seq (r : Response) (s : State) : (s.answered r).seq = .idle := rfl
@[simp] theorem State.answered_host (r : Response) (s : State) : (s.answered r).host = s.host := rfl
@[simp] theorem State.answered_responses (r : Response) (s : State) : (s.answered r).responses = s.responses ++ [r.delivered] := rfl
@[simp] theorem State.answered_env (r : Response) (s : State) : (s.answered r).env = s.env := rfl
@[simp] theorem State.answered_trace (r : Response) (s : State) : (s.answered r).trace = s.trace := rfl
@[simp] theorem State.answered_resetReq (r : Response) (s : State) : (s.answered r).resetReq = s.resetReq := rfl

/-! ### accept -/

@[simp] theorem State.accept_cfg (k : List Op) (s : State) : (s.accept k).cfg = s.cfg := rfl
@[simp] theorem State.accept_img (k : List Op) (s : State) : (s.accept k).img = s.img := rfl
@[simp] theorem State.accept_isOpen (k : List Op) (s : State) : (s.accept k).isOpen = s.isOpen := rfl
@[simp] theorem State.accept_excl (k : List Op) (s : State) : (s.accept k).excl = s.excl := rfl
@[simp] theorem State.accept_addr (k : List Op) (s : State) : (s.accept k).addr = s.addr := rfl
@[simp] theorem State.accept_dev (k : List Op) (s : State) : (s.accept k).dev = s.dev := rfl
@[simp] theorem State.accept_laddr (k : List Op) (s : State) : (s.accept k).laddr = s.laddr := rfl
@[simp] theorem State.accept_ldev (k : List Op) (s : State) : (s.accept k).ldev = s.ldev := rfl
@[simp] theorem State.accept_seq (k : List Op) (s : State) : (s.accept k).seq = .running (Work.fresh k Response.plain) := rfl
@[simp] theorem State.accept_host (k : List Op) (s : State) : (s.accept k).host = s.host := rfl
@[simp] theorem State.accept_responses (k : List Op) (s : State) : (s.accept k).responses = s.responses := rfl
@[simp] theorem State.accept_env (k : List Op) (s : State) : (s.accept k).env = s.env := rfl
@[simp] theorem State.accept_trace (k : List Op) (s : State) : (s.accept k).trace = s.trace := rfl
@[simp] theorem State.accept_resetReq (k : List Op) (s : State) : (s.accept k).resetReq = s.resetReq := rfl

/-! ### acceptWith -/

@[simp] theorem State.acceptWith_cfg (r : Response) (s : State) : (s.acceptWith r).cfg = s.cfg := rfl
@[simp] theorem State.acceptWith_img (r : Response) (s : State) : (s.acceptWith r).img = s.img := rfl
@[simp] theorem State.acceptWith_isOpen (r : Response) (s : State) : (s.acceptWith r).isOpen = s.isOpen := rfl
@[simp] theorem State.acceptWith_excl (r : Response) (s : State) : (s.acceptWith r).excl = s.excl := rfl
@[simp] theorem State.acceptWith_addr (r : Response) (s : State) : (s.acceptWith r).addr = s.addr := rfl
@[simp] theorem State.acceptWith_dev (r : Response) (s : State) : (s.acceptWith r).dev = s.dev := rfl
@[simp] theorem State.acceptWith_laddr (r : Response) (s : State) : (s.acceptWith r).laddr = s.laddr := rfl
@[simp] theorem State.acceptWith_ldev (r : Response) (s : State) : (s.acceptWith r).ldev = s.ldev := rfl
@[simp] theorem State.acceptWith_seq (r : Response) (s : State) : (s.acceptWith r).seq = .running (Work.fresh [] r) := rfl
@[simp] theorem State.acceptWith_host (r : Response) (s : State) : (s.acceptWith r).host = s.host := rfl
@[simp] theorem State.acceptWith_responses (r : Response) (s : State) : (s.acceptWith r).responses = s.responses := rfl
@[simp] theorem State.acceptWith_env (r : Response) (s : State) : (s.acceptWith r).env = s.env := rfl
@[simp] theorem State.acceptWith_trace (r : Response) (s : State) : (s.acceptWith r).trace = s.trace := rfl
@[simp] theorem State.acceptWith_resetReq (r : Response) (s : State) : (s.acceptWith r).resetReq = s.resetReq := rfl

/-! ### busClose -/

@[simp] theorem State.busClose_cfg (s : State) : s.busClose.cfg = s.cfg := rfl
@[simp] theorem State.busClose_img (s : State) : s.busClose.img = s.img := rfl
@[simp] theorem State.busClose_isOpen (s : State) : s.busClose.isOpen = false := rfl
@[simp] theorem State.busClose_excl (s : State) : s.busClose.excl = s.excl := rfl
@[simp] theorem State.busClose_addr (s : State) : s.busClose.addr = s.addr := rfl
@[simp] theorem State.busClose_dev (s : State) : s.busClose.dev = s.dev := rfl
@[simp] theorem State.busClose_laddr (s : State) : s.busClose.laddr = s.laddr := rfl
@[simp] theorem State.busClose_ldev (s : State) : s.busClose.ldev = s.ldev := rfl
@[simp] theorem State.busClose_seq (s : State) : s.busClose.seq = s.seq := rfl
@[simp] theorem State.busClose_host (s : State) : s.busClose.host = s.host := rfl
@[simp] theorem State.busClose_responses (s : State) : s.busClose.responses = s.responses := rfl
@[simp] theorem State.busClose_env (s : State) : s.busClose.env = s.env := rfl
@[simp] theorem State.busClose_trace (s : State) : s.busClose.trace = s.trace ++ [.closed] := rfl
@[simp] theorem State.busClose_resetReq (s : State) : s.busClose.resetReq = s.resetReq := rfl

/-! ### resetEvent -/

@[simp] theorem State.resetEvent_cfg (s : State) : s.resetEvent.cfg = s.cfg := rfl
@[simp] theorem State.resetEvent_img (s : State) : s.resetEvent.img = Img.ofByte s.cfg.layout s.cfg.imgReset := rfl
@[simp] theorem State.resetEvent_isOpen (s : State) : s.resetEvent.isOpen = false := rfl
@[simp] theorem State.resetEvent_excl (s : State) : s.resetEvent.excl = Config.exclReset := rfl
@[simp] theorem State.resetEvent_addr (s : State) : s.resetEvent.addr = Config.addrReset := rfl
@[simp] theorem State.resetEvent_dev (s : State) : s.resetEvent.dev = some Config.devReset := rfl
@[simp] theorem State.resetEvent_laddr (s : State) : s.resetEvent.laddr = 0x00#8 := rfl
@[simp] theorem State.resetEvent_ldev (s : State) : s.resetEvent.ldev = [] := rfl
@[simp] theorem State.resetEvent_seq (s : State) : s.resetEvent.seq = .idle := rfl
@[simp] theorem State.resetEvent_host (s : State) : s.resetEvent.host = s.host := rfl
@[simp] theorem State.resetEvent_responses (s : State) : s.resetEvent.responses = s.responses := rfl
@[simp] theorem State.resetEvent_env (s : State) : s.resetEvent.env = s.env := rfl
@[simp] theorem State.resetEvent_trace (s : State) : s.resetEvent.trace = s.trace := rfl
@[simp] theorem State.resetEvent_resetReq (s : State) : s.resetEvent.resetReq = false := rfl

/-! ### The image -/

@[simp] theorem Img.stage_rs_rs (b : Bool) (g : Img) : (g.stage (.rs b)).rs = b := rfl
@[simp] theorem Img.stage_rs_rw (b : Bool) (g : Img) : (g.stage (.rs b)).rw = g.rw := rfl
@[simp] theorem Img.stage_rs_e (b : Bool) (g : Img) : (g.stage (.rs b)).e = g.e := rfl
@[simp] theorem Img.stage_rs_bl (b : Bool) (g : Img) : (g.stage (.rs b)).bl = g.bl := rfl
@[simp] theorem Img.stage_rs_d (b : Bool) (g : Img) : (g.stage (.rs b)).d = g.d := rfl
@[simp] theorem Img.stage_rw_rs (b : Bool) (g : Img) : (g.stage (.rw b)).rs = g.rs := rfl
@[simp] theorem Img.stage_rw_rw (b : Bool) (g : Img) : (g.stage (.rw b)).rw = b := rfl
@[simp] theorem Img.stage_rw_e (b : Bool) (g : Img) : (g.stage (.rw b)).e = g.e := rfl
@[simp] theorem Img.stage_rw_bl (b : Bool) (g : Img) : (g.stage (.rw b)).bl = g.bl := rfl
@[simp] theorem Img.stage_rw_d (b : Bool) (g : Img) : (g.stage (.rw b)).d = g.d := rfl
@[simp] theorem Img.stage_e_rs (b : Bool) (g : Img) : (g.stage (.e b)).rs = g.rs := rfl
@[simp] theorem Img.stage_e_rw (b : Bool) (g : Img) : (g.stage (.e b)).rw = g.rw := rfl
@[simp] theorem Img.stage_e_e (b : Bool) (g : Img) : (g.stage (.e b)).e = b := rfl
@[simp] theorem Img.stage_e_bl (b : Bool) (g : Img) : (g.stage (.e b)).bl = g.bl := rfl
@[simp] theorem Img.stage_e_d (b : Bool) (g : Img) : (g.stage (.e b)).d = g.d := rfl
@[simp] theorem Img.stage_bl_rs (b : Bool) (g : Img) : (g.stage (.bl b)).rs = g.rs := rfl
@[simp] theorem Img.stage_bl_rw (b : Bool) (g : Img) : (g.stage (.bl b)).rw = g.rw := rfl
@[simp] theorem Img.stage_bl_e (b : Bool) (g : Img) : (g.stage (.bl b)).e = g.e := rfl
@[simp] theorem Img.stage_bl_bl (b : Bool) (g : Img) : (g.stage (.bl b)).bl = b := rfl
@[simp] theorem Img.stage_bl_d (b : Bool) (g : Img) : (g.stage (.bl b)).d = g.d := rfl
@[simp] theorem Img.stage_d_rs (n : Nibble) (g : Img) : (g.stage (.d n)).rs = g.rs := rfl
@[simp] theorem Img.stage_d_rw (n : Nibble) (g : Img) : (g.stage (.d n)).rw = g.rw := rfl
@[simp] theorem Img.stage_d_e (n : Nibble) (g : Img) : (g.stage (.d n)).e = g.e := rfl
@[simp] theorem Img.stage_d_bl (n : Nibble) (g : Img) : (g.stage (.d n)).bl = g.bl := rfl
@[simp] theorem Img.stage_d_d (n : Nibble) (g : Img) : (g.stage (.d n)).d = n := rfl

/-! ### The working registers -/

@[simp] theorem Work.addResult_todo (r : Result) (w : Work) : (w.addResult r).todo = w.todo := rfl
@[simp] theorem Work.addResult_resp (r : Result) (w : Work) : (w.addResult r).resp = { w.resp with result := acc w.resp.result r } := rfl
@[simp] theorem Work.addResult_rd (r : Result) (w : Work) : (w.addResult r).rd = w.rd := rfl
@[simp] theorem Work.addResult_nh (r : Result) (w : Work) : (w.addResult r).nh = w.nh := rfl
@[simp] theorem Work.addResult_nl (r : Result) (w : Work) : (w.addResult r).nl = w.nl := rfl

@[simp] theorem Work.report_discard (r : Result) (w : Work) : w.report .discard r = w := rfl
@[simp] theorem Work.report_result (r : Result) (w : Work) : w.report .result r = w.addResult r := rfl
@[simp] theorem Work.report_read (r : Result) (w : Work) : w.report .read r = { w with rd := acc w.rd r } := rfl

/-! ### acc -/

@[simp] theorem acc_ok (r : Result) : acc r .ok = r := rfl
@[simp] theorem acc_err (r : Result) (f : Failure) : acc r (.err f) = .err f := rfl
@[simp] theorem ok_acc (r : Result) : acc .ok r = r := by cases r <;> rfl
theorem acc_assoc (a b c : Result) : acc (acc a b) c = acc a (acc b c) := by cases c <;> rfl

end Sys2Proof.Machine
end

