-- ==== Sys2Proof/Laws/Ops.lean ====
section
/-! SUPPORT. What each shared operation does: the bus events, one lemma each for the result and the state after, and the
fields they leave unchanged. -/

namespace Sys2Proof.Machine

/-! ### MemWrite -/

theorem memWrite_fst (s : State) : s.memWrite.1 = writeResult (s.env.takeWrite s.cfg).1 := rfl

theorem memWrite_snd (s : State) :
    s.memWrite.2 =
      s.record (.wrote s.ldev s.laddr (s.img.byte s.cfg.layout) (s.env.takeWrite s.cfg).1) (s.env.takeWrite s.cfg).2 := rfl

@[simp] theorem memWrite_cfg (s : State) : s.memWrite.2.cfg = s.cfg := rfl
@[simp] theorem memWrite_img (s : State) : s.memWrite.2.img = s.img := rfl
@[simp] theorem memWrite_isOpen (s : State) : s.memWrite.2.isOpen = s.isOpen := rfl
@[simp] theorem memWrite_excl (s : State) : s.memWrite.2.excl = s.excl := rfl
@[simp] theorem memWrite_addr (s : State) : s.memWrite.2.addr = s.addr := rfl
@[simp] theorem memWrite_dev (s : State) : s.memWrite.2.dev = s.dev := rfl
@[simp] theorem memWrite_laddr (s : State) : s.memWrite.2.laddr = s.laddr := rfl
@[simp] theorem memWrite_ldev (s : State) : s.memWrite.2.ldev = s.ldev := rfl
@[simp] theorem memWrite_seq (s : State) : s.memWrite.2.seq = s.seq := rfl
@[simp] theorem memWrite_host (s : State) : s.memWrite.2.host = s.host := rfl
@[simp] theorem memWrite_responses (s : State) : s.memWrite.2.responses = s.responses := rfl
@[simp] theorem memWrite_resetReq (s : State) : s.memWrite.2.resetReq = s.resetReq := rfl
@[simp] theorem memWrite_env (s : State) : s.memWrite.2.env = (s.env.takeWrite s.cfg).2 := rfl
@[simp] theorem memWrite_trace (s : State) :
    s.memWrite.2.trace =
      s.trace ++ [.wrote s.ldev s.laddr (s.img.byte s.cfg.layout) (s.env.takeWrite s.cfg).1] := rfl

/-- A scripted answer is the one a `MemWrite` gets. -/
theorem takeWrite_cons {c : Config} {v : Env} {a : WriteAnswer} {as : List WriteAnswer} (h : v.writes = a :: as) :
    v.takeWrite c = (a, { v with writes := as }) := by simp [Env.takeWrite, h]

/-! ### MemRead -/

theorem memRead_fst (s : State) : s.memRead.1 = (s.env.takeRead s.cfg).1 := rfl

theorem memRead_snd (s : State) :
    s.memRead.2 = s.record (.sampled s.ldev s.laddr (s.env.takeRead s.cfg).1) (s.env.takeRead s.cfg).2 := rfl

@[simp] theorem memRead_cfg (s : State) : s.memRead.2.cfg = s.cfg := rfl
@[simp] theorem memRead_img (s : State) : s.memRead.2.img = s.img := rfl
@[simp] theorem memRead_isOpen (s : State) : s.memRead.2.isOpen = s.isOpen := rfl
@[simp] theorem memRead_excl (s : State) : s.memRead.2.excl = s.excl := rfl
@[simp] theorem memRead_addr (s : State) : s.memRead.2.addr = s.addr := rfl
@[simp] theorem memRead_dev (s : State) : s.memRead.2.dev = s.dev := rfl
@[simp] theorem memRead_laddr (s : State) : s.memRead.2.laddr = s.laddr := rfl
@[simp] theorem memRead_ldev (s : State) : s.memRead.2.ldev = s.ldev := rfl
@[simp] theorem memRead_seq (s : State) : s.memRead.2.seq = s.seq := rfl
@[simp] theorem memRead_host (s : State) : s.memRead.2.host = s.host := rfl
@[simp] theorem memRead_responses (s : State) : s.memRead.2.responses = s.responses := rfl
@[simp] theorem memRead_resetReq (s : State) : s.memRead.2.resetReq = s.resetReq := rfl
@[simp] theorem memRead_env (s : State) : s.memRead.2.env = (s.env.takeRead s.cfg).2 := rfl
@[simp] theorem memRead_trace (s : State) :
    s.memRead.2.trace = s.trace ++ [.sampled s.ldev s.laddr (s.env.takeRead s.cfg).1] := rfl

/-- A scripted answer is the one a `MemRead` gets. -/
theorem takeRead_cons {c : Config} {v : Env} {a : ReadAnswer} {as : List ReadAnswer} (h : v.reads = a :: as) :
    v.takeRead c = (a, { v with reads := as }) := by simp [Env.takeRead, h]

/-! ### BusOpen -/

/-- The result of `open()`'s `BusOpen` is what its answer says, and only `ok` binds the connection. -/
theorem busOpen_eq (n : List Byte) (s : State) :
    s.busOpen n =
      (openResult (s.env.takeOpen s.cfg).1,
        if (s.env.takeOpen s.cfg).1 = .ok
        then (s.record (.opened n s.addr .ok) (s.env.takeOpen s.cfg).2).bind n
        else s.record (.opened n s.addr (s.env.takeOpen s.cfg).1) (s.env.takeOpen s.cfg).2) := by
  unfold State.busOpen
  rcases h : (s.env.takeOpen s.cfg) with ⟨_ | _ | c, v⟩ <;> simp

@[simp] theorem openResult_eq_ok (a : OpenAnswer) : openResult a = .ok ↔ a = .ok := by
  cases a <;> simp [openResult]

theorem busOpen_ok {n : List Byte} {s s1 : State} (h : s.busOpen n = (.ok, s1)) :
    (s.env.takeOpen s.cfg).1 = .ok ∧ s1 = (s.record (.opened n s.addr .ok) (s.env.takeOpen s.cfg).2).bind n := by
  rw [busOpen_eq] at h
  simp only [Prod.mk.injEq, openResult_eq_ok] at h
  exact ⟨h.1, by rw [← h.2, if_pos h.1]⟩

theorem busOpen_err {n : List Byte} {s s1 : State} {f : Failure} (h : s.busOpen n = (.err f, s1)) :
    (s.env.takeOpen s.cfg).1 ≠ .ok ∧ openResult (s.env.takeOpen s.cfg).1 = .err f ∧
      s1 = s.record (.opened n s.addr (s.env.takeOpen s.cfg).1) (s.env.takeOpen s.cfg).2 := by
  rw [busOpen_eq] at h
  simp only [Prod.mk.injEq] at h
  have hne : (s.env.takeOpen s.cfg).1 ≠ .ok := by
    intro hk; rw [hk] at h; exact absurd h.1 (by simp [openResult])
  exact ⟨hne, h.1, by rw [← h.2, if_neg hne]⟩

@[simp] theorem busOpen_cfg (n : List Byte) (s : State) : (s.busOpen n).2.cfg = s.cfg := by
  rw [busOpen_eq]; dsimp only; split <;> rfl
@[simp] theorem busOpen_img (n : List Byte) (s : State) : (s.busOpen n).2.img = s.img := by
  rw [busOpen_eq]; dsimp only; split <;> rfl
@[simp] theorem busOpen_excl (n : List Byte) (s : State) : (s.busOpen n).2.excl = s.excl := by
  rw [busOpen_eq]; dsimp only; split <;> rfl
@[simp] theorem busOpen_addr (n : List Byte) (s : State) : (s.busOpen n).2.addr = s.addr := by
  rw [busOpen_eq]; dsimp only; split <;> rfl
@[simp] theorem busOpen_dev (n : List Byte) (s : State) : (s.busOpen n).2.dev = s.dev := by
  rw [busOpen_eq]; dsimp only; split <;> rfl
@[simp] theorem busOpen_seq (n : List Byte) (s : State) : (s.busOpen n).2.seq = s.seq := by
  rw [busOpen_eq]; dsimp only; split <;> rfl
@[simp] theorem busOpen_host (n : List Byte) (s : State) : (s.busOpen n).2.host = s.host := by
  rw [busOpen_eq]; dsimp only; split <;> rfl
@[simp] theorem busOpen_responses (n : List Byte) (s : State) : (s.busOpen n).2.responses = s.responses := by
  rw [busOpen_eq]; dsimp only; split <;> rfl
@[simp] theorem busOpen_resetReq (n : List Byte) (s : State) : (s.busOpen n).2.resetReq = s.resetReq := by
  rw [busOpen_eq]; dsimp only; split <;> rfl
@[simp] theorem busOpen_env (n : List Byte) (s : State) : (s.busOpen n).2.env = (s.env.takeOpen s.cfg).2 := by
  rw [busOpen_eq]; dsimp only; split <;> rfl
@[simp] theorem busOpen_trace (n : List Byte) (s : State) :
    (s.busOpen n).2.trace = s.trace ++ [.opened n s.addr (s.env.takeOpen s.cfg).1] := by
  rw [busOpen_eq]; dsimp only; split <;> rename_i h <;> simp [h]

/-- A scripted answer is the one a `BusOpen` gets. -/
theorem takeOpen_cons {c : Config} {v : Env} {a : OpenAnswer} {as : List OpenAnswer} (h : v.opens = a :: as) :
    v.takeOpen c = (a, { v with opens := as }) := by simp [Env.takeOpen, h]

/-- No bound is ever reached: the poll goes on exactly while the controller is busy. -/
@[simp] theorem pollsAgain_eq (cap : PollCap) (sr : Byte) : pollsAgain cap sr = busyOf sr := by cases cap; rfl

/-! ### The start of a status read -/

theorem startRead_seq (u : ReadUse) (k : List Op) (w : Work) (s : State) :
    ∃ w', (startRead u k w s).seq = .running w' ∧ w'.todo = readTail s.cfg u ++ k := ⟨_, rfl, rfl⟩

@[simp] theorem startRead_cfg (u : ReadUse) (k : List Op) (w : Work) (s : State) :
    (startRead u k w s).cfg = s.cfg := by unfold startRead; dsimp only; split <;> rfl
@[simp] theorem startRead_isOpen (u : ReadUse) (k : List Op) (w : Work) (s : State) :
    (startRead u k w s).isOpen = s.isOpen := by unfold startRead; dsimp only; split <;> rfl
@[simp] theorem startRead_excl (u : ReadUse) (k : List Op) (w : Work) (s : State) :
    (startRead u k w s).excl = s.excl := by unfold startRead; dsimp only; split <;> rfl
@[simp] theorem startRead_addr (u : ReadUse) (k : List Op) (w : Work) (s : State) :
    (startRead u k w s).addr = s.addr := by unfold startRead; dsimp only; split <;> rfl
@[simp] theorem startRead_dev (u : ReadUse) (k : List Op) (w : Work) (s : State) :
    (startRead u k w s).dev = s.dev := by unfold startRead; dsimp only; split <;> rfl
@[simp] theorem startRead_laddr (u : ReadUse) (k : List Op) (w : Work) (s : State) :
    (startRead u k w s).laddr = s.laddr := by unfold startRead; dsimp only; split <;> rfl
@[simp] theorem startRead_ldev (u : ReadUse) (k : List Op) (w : Work) (s : State) :
    (startRead u k w s).ldev = s.ldev := by unfold startRead; dsimp only; split <;> rfl
@[simp] theorem startRead_host (u : ReadUse) (k : List Op) (w : Work) (s : State) :
    (startRead u k w s).host = s.host := by unfold startRead; dsimp only; split <;> rfl
@[simp] theorem startRead_responses (u : ReadUse) (k : List Op) (w : Work) (s : State) :
    (startRead u k w s).responses = s.responses := by unfold startRead; dsimp only; split <;> rfl
@[simp] theorem startRead_resetReq (u : ReadUse) (k : List Op) (w : Work) (s : State) :
    (startRead u k w s).resetReq = s.resetReq := by unfold startRead; dsimp only; split <;> rfl
@[simp] theorem startRead_bl (u : ReadUse) (k : List Op) (w : Work) (s : State) :
    (startRead u k w s).img.bl = s.img.bl := by unfold startRead; dsimp only; split <;> rfl
/-- The strobe is raised at once unless the image is written first. -/
@[simp] theorem startRead_e (u : ReadUse) (k : List Op) (w : Work) (s : State) :
    (startRead u k w s).img.e = (if s.cfg.prewrite then s.img.e else true) := by
  unfold startRead; dsimp only; split <;> rfl
/-- The first event of a status read is a write of the image it leaves. -/
@[simp] theorem startRead_trace (u : ReadUse) (k : List Op) (w : Work) (s : State) :
    (startRead u k w s).trace =
      s.trace ++ [.wrote s.ldev s.laddr ((startRead u k w s).img.byte s.cfg.layout) (s.env.takeWrite s.cfg).1] := by
  unfold startRead; dsimp only; split <;> rfl

end Sys2Proof.Machine
end

