-- ==== Sys2Proof/Laws/PerInstr.lean ====
section
/-! SUPPORT. One lemma per command: the family `WordFields`. -/

namespace Sys2Proof.Laws.WordFields

/-- The word of a command carries its opcode in bits 23:16 and its operands in bits 15:8 and 7:0, and the payload that its
format takes (30_encoding.md R70, R72, R73). -/
def Statement (i : Instr) : Prop :=
  (encode i).cw.op = i.opcode ∧ (encode i).cw.a = i.fieldA ∧ (encode i).cw.b = i.fieldB ∧ (encode i).payload = i.payload

/-- The fields are those the word was made of. -/
theorem of_make (i : Instr) : Statement i := ⟨make_op _ _ _, make_a _ _ _, make_b _ _ _, rfl⟩

theorem openBus : Statement .openBus := of_make _
theorem closeBus : Statement .closeBus := of_make _
theorem wrreg : Statement .wrreg := of_make _
theorem latch : Statement .latch := of_make _
theorem rdreg : Statement .rdreg := of_make _
theorem setbl (f : Bool) : Statement (.setbl f) := of_make _
theorem getbl : Statement .getbl := of_make _
theorem setexcl (f : Bool) : Statement (.setexcl f) := of_make _
theorem getexcl : Statement .getexcl := of_make _
theorem setaddr (a : Byte) : Statement (.setaddr a) := of_make _
theorem getaddr : Statement .getaddr := of_make _
theorem setdev (p : Payload) : Statement (.setdev p) := of_make _
theorem getdev : Statement .getdev := of_make _
theorem init : Statement .init := of_make _
theorem wrbyte (rs : Bool) (v : Byte) : Statement (.wrbyte rs v) := of_make _
theorem clear : Statement .clear := of_make _
theorem home : Statement .home := of_make _
theorem setdda (off : Byte) : Statement (.setdda off) := of_make _
theorem cursmode : Statement .cursmode := of_make _
theorem line (off : Byte) (t : Payload) : Statement (.line off t) := of_make _
theorem getstat : Statement .getstat := of_make _

end Sys2Proof.Laws.WordFields
end

