-- ==== Sys2Proof/Laws/Run.lean ====
section
/-! SUPPORT. Running a procedure: what one `advance` leaves unchanged, how `drive` goes on, and how a list of
micro-operations leads from one point of a command to another. -/

namespace Sys2Proof.Machine

/-- The configuration registers, the host's commands and the parameters: what no running procedure changes. -/
def sameSettings (s t : State) : Prop :=
  t.cfg = s.cfg ∧ t.excl = s.excl ∧ t.addr = s.addr ∧ t.dev = s.dev ∧ t.host = s.host ∧ t.resetReq = s.resetReq

theorem sameSettings_refl (s : State) : sameSettings s s := ⟨rfl, rfl, rfl, rfl, rfl, rfl⟩

theorem sameSettings_trans {s t u : State} (h : sameSettings s t) (g : sameSettings t u) : sameSettings s u := by
  obtain ⟨a, b, c, d, e, f⟩ := h
  obtain ⟨a', b', c', d', e', f'⟩ := g
  exact ⟨a'.trans a, b'.trans b, c'.trans c, d'.trans d, e'.trans e, f'.trans f⟩

theorem busOpen_sameSettings {n : List Byte} {s s1 : State} {r : Result} (h : s.busOpen n = (r, s1)) :
    sameSettings s s1 := by
  have h2 : s1 = (s.busOpen n).2 := by rw [h]
  subst h2
  simp [sameSettings]

/-- A running procedure changes none of the settings (41_config_access.md R128, 60_exceptions.md R190). -/
theorem advance_sameSettings (k : List Op) (w : Work) (s t : State) (h : advance k w s = .next t) :
    sameSettings s t := by
  fun_induction advance k w s with
  | case2 f k w s ih => exact ih h
  | case3 k w s _ ih | case8 k w s _ ih | case10 d k w s _ _ ih | case16 u k w s _ ih | case19 u k w s _ _ ih
  | case21 u k w s _ _ _ ih | case22 u k w s _ _ ih => exact ih h
  | case5 k w s _ n _ s1 hb | case6 k w s _ n _ f s1 hb | case11 d k w s _ n _ s1 hb
  | case12 d k w s _ n _ f s1 hb =>
    cases h
    have := busOpen_sameSettings hb
    simpa [sameSettings] using this
  | case14 | case18 => cases h
  | case1 | case4 | case7 | case9 | case13 | case15 | case17 | case20 => cases h; simp [sameSettings]

/-! ### The end of a status read -/

theorem advance_readEnd_err {w : Work} {f : Failure} (h : w.rd = .err f) {u : ReadUse} {k : List Op} {s : State} :
    advance (.readEnd u :: k) w s = advance k (w.addResult (.err f)) s := by
  rw [advance]; simp only [h]

theorem advance_readEnd_busy {w : Work} (h : w.rd = .ok) (hb : busyOf (joinNibbles w.nh w.nl) = true)
    {k : List Op} {s : State} :
    advance (.readEnd .poll :: k) w s =
      if s.isOpen then .next (startRead .poll k w s) else advance k (w.addResult (.err .notConnected)) s := by
  rw [advance]; simp only [h, pollsAgain_eq, hb, and_self, if_true]

theorem advance_readEnd_ok {w : Work} (h : w.rd = .ok) {u : ReadUse}
    (hb : ¬(u = .poll ∧ busyOf (joinNibbles w.nh w.nl) = true)) {k : List Op} {s : State} :
    advance (.readEnd u :: k) w s = advance k (w.statusRead u (joinNibbles w.nh w.nl)) s := by
  rw [advance]; simp only [h, pollsAgain_eq]; rw [if_neg hb]

/-! ### The environment's codes have `ECODE_W` bits -/

theorem codeOfWidth_fits (c : Config) (e : ECode) : codeFits c (codeOfWidth c e) = true := by
  have h : e.toNat % 2 ^ c.ecodeW < 2 ^ c.ecodeW := Nat.mod_lt _ (Nat.two_pow_pos _)
  have h' : e.toNat % 2 ^ c.ecodeW < 2 ^ 16 := Nat.lt_of_le_of_lt (Nat.mod_le _ _) e.isLt
  simp only [codeFits, codeOfWidth, BitVec.toNat_ofNat, Nat.mod_eq_of_lt h', decide_eq_true_eq]
  exact h

/-- With sixteen bits a code is taken as it is. -/
theorem codeOfWidth_full {c : Config} (h : c.ecodeW = 16) (e : ECode) : codeOfWidth c e = e := by
  rw [codeOfWidth, h, Nat.mod_eq_of_lt e.isLt, BitVec.ofNat_toNat, BitVec.setWidth_eq]

/-- What the environment answers to a `BusOpen` fits, and what it still holds ready does. -/
theorem takeOpen_fits {c : Config} {v : Env} (h : answersFit c v = true) :
    resultFits c (openResult (v.takeOpen c).1) = true ∧ answersFit c (v.takeOpen c).2 = true := by
  unfold Env.takeOpen
  cases ho : v.opens with
  | nil =>
    rw [answersFit, ho] at h
    refine ⟨?_, h⟩
    dsimp only
    cases Config.freeOpen v.drawn <;> first | rfl | exact codeOfWidth_fits _ _
  | cons a as =>
    rw [answersFit, ho, List.all_cons] at h
    simp only [Bool.and_eq_true] at h
    exact ⟨h.1.1.1, by simp only [answersFit, Bool.and_eq_true]; exact ⟨⟨h.1.1.2, h.1.2⟩, h.2⟩⟩

/-- What the environment answers to a `MemWrite` fits, and what it still holds ready does. -/
theorem takeWrite_fits {c : Config} {v : Env} (h : answersFit c v = true) :
    resultFits c (writeResult (v.takeWrite c).1) = true ∧ answersFit c (v.takeWrite c).2 = true := by
  unfold Env.takeWrite
  cases ho : v.writes with
  | nil =>
    rw [answersFit, ho] at h
    refine ⟨?_, h⟩
    dsimp only
    cases Config.freeWrite v.drawn <;> first | rfl | exact codeOfWidth_fits _ _
  | cons a as =>
    rw [answersFit, ho, List.all_cons] at h
    simp only [Bool.and_eq_true] at h
    exact ⟨h.1.2.1, by simp only [answersFit, Bool.and_eq_true]; exact ⟨⟨h.1.1, h.1.2.2⟩, h.2⟩⟩

/-- What the environment answers to a `MemRead` fits, and what it still holds ready does. -/
theorem takeRead_fits {c : Config} {v : Env} (h : answersFit c v = true) :
    resultFits c (readResult (v.takeRead c).1) = true ∧ answersFit c (v.takeRead c).2 = true := by
  unfold Env.takeRead
  cases ho : v.reads with
  | nil =>
    rw [answersFit, ho] at h
    refine ⟨?_, h⟩
    dsimp only
    cases Config.freeRead v.drawn <;> first | rfl | exact codeOfWidth_fits _ _
  | cons a as =>
    rw [answersFit, ho, List.all_cons] at h
    simp only [Bool.and_eq_true] at h
    exact ⟨h.2.1, by simp only [answersFit, Bool.and_eq_true]; exact ⟨h.1, h.2.2⟩⟩

/-- The last failure of two results that fit fits. -/
theorem acc_fits {c : Config} {r q : Result} (h : resultFits c r = true) (g : resultFits c q = true) :
    resultFits c (acc r q) = true := by
  cases q
  · exact h
  · exact g

/-! ### The position and the todo list are arguments, not state, of `advance` -/

/-- `s` at another sequencer position. -/
def State.at (q : Seq) (s : State) : State := { s with seq := q }

theorem busOpen_at (n : List Byte) (q : Seq) (s : State) :
    (s.at q).busOpen n = ((s.busOpen n).1, (s.busOpen n).2.at q) := by
  have e : (s.at q).env.takeOpen (s.at q).cfg = s.env.takeOpen s.cfg := rfl
  unfold State.busOpen
  rw [e]
  rcases (s.env.takeOpen s.cfg) with ⟨_ | _ | c, v⟩ <;> rfl

theorem startRead_at (u : ReadUse) (k : List Op) (w : Work) (x : List Op) (q : Seq) (s : State) :
    startRead u k { w with todo := x } (s.at q) = startRead u k w s := by
  unfold startRead
  by_cases h : s.cfg.prewrite <;> simp [h, State.at] <;> rfl

/-- `advance` does not look at the position it is called from. -/
theorem advance_at (k : List Op) (w : Work) (s : State) (x : List Op) (q : Seq) :
    advance k { w with todo := x } (s.at q) = advance k w s := by
  fun_induction advance k w s with
  | case1 w s => rfl
  | case2 f k w s ih => exact ih
  | case3 k w s h ih =>
    rw [advance, if_pos (by exact h)]; exact ih
  | case4 k w s h hd =>
    rw [advance, if_neg (by exact h)]
    have : (s.at q).dev = none := hd
    simp only [this]
    rfl
  | case5 k w s h n hd s1 hb =>
    rw [advance, if_neg (by exact h)]
    have : (s.at q).dev = some n := hd
    simp only [this, busOpen_at, hb]
    rfl
  | case6 k w s h n hd f s1 hb =>
    rw [advance, if_neg (by exact h)]
    have : (s.at q).dev = some n := hd
    simp only [this, busOpen_at, hb]
    rfl
  | case7 k w s h => rw [advance, if_pos (by exact h)]; rfl
  | case8 k w s h ih => rw [advance, if_neg (by exact h)]; exact ih
  | case9 d k w s h =>
    rw [advance, if_pos (by exact h)]
    cases d <;> rfl
  | case10 d k w s h hd ih =>
    rw [advance, if_neg (by exact h)]
    have : (s.at q).dev = none := hd
    simp only [this]
    cases d <;> exact ih
  | case11 d k w s h n hd s1 hb =>
    rw [advance, if_neg (by exact h)]
    have : (s.at q).dev = some n := hd
    simp only [this, busOpen_at, hb]
    rfl
  | case12 d k w s h n hd f s1 hb =>
    rw [advance, if_neg (by exact h)]
    have : (s.at q).dev = some n := hd
    simp only [this, busOpen_at, hb]
    cases d <;> rfl
  | case13 d k w s h =>
    rw [advance, if_pos (by exact h)]
    cases d <;> rfl
  | case14 d k w s h => rw [advance, if_neg (by exact h)]
  | case15 u k w s h => rw [advance, if_pos (by exact h), startRead_at]
  | case16 u k w s h ih => rw [advance, if_neg (by exact h)]; exact ih
  | case17 hf k w s h =>
    rw [advance, if_pos (by exact h)]
    have e : ((s.at q).memRead).1 = s.memRead.1 := rfl
    rw [e]
    rcases s.memRead.1 with v | c <;> cases hf <;> rfl
  | case18 hf k w s h => rw [advance, if_neg (by exact h)]
  | case19 u k w s f hr ih => rw [advance_readEnd_err (w := { w with todo := x }) hr]; exact ih
  | case20 u k w s hr hp h =>
    rw [hp.1, advance_readEnd_busy (w := { w with todo := x }) hr hp.2, if_pos (by exact h), startRead_at]
  | case21 u k w s hr hp h ih =>
    rw [hp.1, advance_readEnd_busy (w := { w with todo := x }) hr hp.2, if_neg (by exact h)]
    exact ih
  | case22 u k w s hr hp ih =>
    rw [advance_readEnd_ok (w := { w with todo := x }) hr hp]
    cases u <;> exact ih

/-! ### drive -/

theorem drive_zero (s : State) : drive 0 s = .next s := rfl

theorem drive_idle {s : State} (h : s.seq = .idle) (n : Nat) : drive n s = .next s := by
  cases n with
  | zero => rfl
  | succ n => rw [drive]; simp only [h]

theorem drive_answered (n : Nat) (s : State) (r : Response) : drive n (s.answered r) = .next (s.answered r) :=
  drive_idle rfl n

/-- What follows an outcome: at most `n` more steps of the command. -/
def thenDrive (n : Nat) : Host.Outcome State Fault Refusal → Host.Outcome State Fault Refusal
  | .next t => drive n t
  | .fault f => .fault f
  | .refused r => .refused r

theorem step_running {s : State} {w : Work} (h : s.resetReq = false) (hs : s.seq = .running w) :
    step s = advance w.todo w s := by
  unfold step; simp [h, hs]

theorem drive_succ {s : State} {w : Work} (h : s.resetReq = false) (hs : s.seq = .running w) (n : Nat) :
    drive (n + 1) s = thenDrive n (advance w.todo w s) := by
  rw [drive]; simp only [hs, step_running h hs]
  cases advance w.todo w s <;> rfl

/-- From a parked procedure, one more step is one `advance`. -/
theorem drive_park {s : State} (h : s.resetReq = false) (k : List Op) (w : Work) (n : Nat) :
    drive (n + 1) (s.park k w) = thenDrive n (advance k w s) := by
  rw [drive_succ (s := s.park k w) (w := { w with todo := k }) h rfl]
  have := advance_at k w s k (.running { w with todo := k })
  simp only [State.at] at this
  rw [← this]
  rfl

/-- From an accepted command, one more step is one `advance`. -/
theorem drive_accept {s : State} (h : s.resetReq = false) (k : List Op) (n : Nat) :
    drive (n + 1) (s.accept k) = thenDrive n (advance k (Work.fresh k Response.plain) s) := by
  have e : s.accept k = s.park k (Work.fresh k Response.plain) := rfl
  rw [e, drive_park h]

theorem drive_acceptWith {s : State} (h : s.resetReq = false) (r : Response) (n : Nat) :
    drive (n + 1) (s.acceptWith r) = .next (s.answered r) := by
  have e : s.acceptWith r = s.park [] (Work.fresh [] r) := rfl
  rw [e, drive_park h, advance]
  exact drive_answered n s r

/-- `drive` is one run: reaching a state and going on is one longer drive. -/
theorem drive_add {s t : State} {m : Nat} (h : drive m s = .next t) (n : Nat) : drive (m + n) s = drive n t := by
  induction m generalizing s with
  | zero => simp only [drive] at h; cases h; simp
  | succ m ih =>
    cases hs : s.seq with
    | idle => rw [drive_idle hs] at h; cases h; rw [drive_idle hs, drive_idle hs]
    | running w =>
      have e : m + 1 + n = (m + n) + 1 := by omega
      rw [e]
      rw [drive] at h ⊢
      simp only [hs] at h ⊢
      cases hst : step s with
      | next u => simp only [hst] at h ⊢; exact ih h
      | fault f => simp only [hst] at h; cases h
      | refused r => simp only [hst] at h; cases h

/-- Two idle states that one run reaches are the same. -/
theorem drive_idle_unique {s u v : State} {m n : Nat} (hu : drive m s = .next u) (hv : drive n s = .next v)
    (iu : u.seq = .idle) (iv : v.seq = .idle) : u = v := by
  have a := drive_add hu n
  have b := drive_add hv m
  rw [drive_idle iu] at a
  rw [drive_idle iv, Nat.add_comm] at b
  rw [a] at b; cases b; rfl

/-! ### Leading from one point of a command to another -/

/-- After `c` bus events the run from `(k, w, s)` is where the run from `(k', w', s')` starts. -/
def Leads (c : Nat) (k : List Op) (w : Work) (s : State) (k' : List Op) (w' : Work) (s' : State) : Prop :=
  ∀ n, thenDrive (n + c) (advance k w s) = thenDrive n (advance k' w' s')

theorem Leads.refl (k : List Op) (w : Work) (s : State) : Leads 0 k w s k w s := fun _ => rfl

theorem Leads.trans {a b : Nat} {k k' k'' : List Op} {w w' w'' : Work} {s s' s'' : State}
    (h : Leads a k w s k' w' s') (g : Leads b k' w' s' k'' w'' s'') : Leads (b + a) k w s k'' w'' s'' := by
  intro n
  rw [← Nat.add_assoc, h (n + b), g n]

/-- A micro-operation without a bus event. -/
theorem Leads.quiet {k k' : List Op} {w w' : Work} {s s' : State} (h : advance k w s = advance k' w' s') :
    Leads 0 k w s k' w' s' := fun n => by rw [h]; rfl

/-- A bus event that parks the procedure. -/
theorem Leads.event {k k' : List Op} {w w' : Work} {s s' : State} (hr : s'.resetReq = false)
    (h : advance k w s = .next (s'.park k' w')) : Leads 1 k w s k' w' s' := by
  intro n
  rw [h]
  exact drive_park hr k' w' n

/-- The end of a procedure. -/
theorem Leads.finish {c : Nat} {k : List Op} {w w' : Work} {s s' : State} (h : Leads c k w s [] w' s') (n : Nat) :
    thenDrive (n + c) (advance k w s) = .next (s'.answered w'.resp) := by
  rw [h n, advance]
  exact drive_answered n s' w'.resp

end Sys2Proof.Machine
end

