-- ==== Sys2Proof/Laws/Segments.lean ====
section
/-! SUPPORT. Each list of micro-operations runs its procedure: from the list's start the run leads to what follows it, in
the state and with the result that the procedure's function gives. -/

namespace Sys2Proof.Machine

/-- `Leads` after some number of bus events. -/
def LeadsTo (k : List Op) (w : Work) (s : State) (k' : List Op) (w' : Work) (s' : State) : Prop :=
  ∃ c, Leads c k w s k' w' s'

theorem LeadsTo.refl (k : List Op) (w : Work) (s : State) : LeadsTo k w s k w s := ⟨0, Leads.refl k w s⟩

theorem LeadsTo.trans {k k' k'' : List Op} {w w' w'' : Work} {s s' s'' : State}
    (h : LeadsTo k w s k' w' s') (g : LeadsTo k' w' s' k'' w'' s'') : LeadsTo k w s k'' w'' s'' := by
  obtain ⟨a, h⟩ := h
  obtain ⟨b, g⟩ := g
  exact ⟨b + a, h.trans g⟩

theorem LeadsTo.quiet {k k' : List Op} {w w' : Work} {s s' : State} (h : advance k w s = advance k' w' s') :
    LeadsTo k w s k' w' s' := ⟨0, Leads.quiet h⟩

theorem LeadsTo.event {k k' : List Op} {w w' : Work} {s s' : State} (hr : s'.resetReq = false)
    (h : advance k w s = .next (s'.park k' w')) : LeadsTo k w s k' w' s' := ⟨1, Leads.event hr h⟩

/-- `Leads` after at most `b` bus events. -/
def LeadsWithin (b : Nat) (k : List Op) (w : Work) (s : State) (k' : List Op) (w' : Work) (s' : State) : Prop :=
  ∃ c, c ≤ b ∧ Leads c k w s k' w' s'

theorem LeadsWithin.trans {a b : Nat} {k k' k'' : List Op} {w w' w'' : Work} {s s' s'' : State}
    (h : LeadsWithin a k w s k' w' s') (g : LeadsWithin b k' w' s' k'' w'' s'') :
    LeadsWithin (a + b) k w s k'' w'' s'' := by
  obtain ⟨c, hc, h⟩ := h
  obtain ⟨d, hd, g⟩ := g
  exact ⟨d + c, by omega, h.trans g⟩

theorem LeadsWithin.leadsTo {b : Nat} {k k' : List Op} {w w' : Work} {s s' : State}
    (h : LeadsWithin b k w s k' w' s') : LeadsTo k w s k' w' s' := by
  obtain ⟨c, -, h⟩ := h
  exact ⟨c, h⟩

/-- A list of micro-operations that leads to its end within `b` events is a run of the accepted command, response
included, of at most `b + 1` steps. -/
theorem LeadsWithin.accept_finish {b : Nat} {k : List Op} {w' : Work} {s s' : State} (hr : s.resetReq = false)
    (h : LeadsWithin b k (Work.fresh k Response.plain) s [] w' s') :
    drive (b + 1) (s.accept k) = .next (s'.answered w'.resp) := by
  obtain ⟨c, hc, h⟩ := h
  have e : b = (b - c) + c := by omega
  rw [drive_accept hr, e, h.finish]

/-- The end of a procedure. -/
theorem LeadsTo.finish {k : List Op} {w w' : Work} {s s' : State} (h : LeadsTo k w s [] w' s') :
    ∃ n, thenDrive n (advance k w s) = .next (s'.answered w'.resp) := by
  obtain ⟨c, h⟩ := h
  exact ⟨0 + c, h.finish 0⟩

/-! ### The procedures keep the settings -/

theorem memWrite_settings (s : State) : sameSettings s s.memWrite.2 := by simp [sameSettings]
theorem memRead_settings (s : State) : sameSettings s s.memRead.2 := by simp [sameSettings]
theorem busClose_settings (s : State) : sameSettings s s.busClose := by simp [sameSettings]
theorem stage_settings (f : Stage) (s : State) : sameSettings s (s.stage f) := by simp [sameSettings]

theorem procOpen_settings (s : State) : sameSettings s (procOpen s).2 := by
  unfold procOpen
  split
  · exact sameSettings_refl s
  · split
    · exact sameSettings_refl s
    · simp [sameSettings]

theorem procClose_settings (s : State) : sameSettings s (procClose s) := by
  unfold procClose
  split
  · exact busClose_settings s
  · exact sameSettings_refl s

theorem procWriteRegister_settings (s : State) : sameSettings s (procWriteRegister s).2 := by
  unfold procWriteRegister
  split
  · exact memWrite_settings s
  · have h := procOpen_settings s
    rcases hp : procOpen s with ⟨_ | f, s1⟩ <;> rw [hp] at h
    · exact sameSettings_trans (sameSettings_trans h (memWrite_settings s1)) (procClose_settings _)
    · exact h

theorem procLatch_settings (s : State) : sameSettings s (procLatch s).2 := by
  unfold procLatch
  exact sameSettings_trans
    (sameSettings_trans (sameSettings_trans (stage_settings _ s) (procWriteRegister_settings _)) (stage_settings _ _))
    (procWriteRegister_settings _)

theorem procPrewrite_settings (r : Result) (s : State) : sameSettings s (procPrewrite r s).2 := by
  unfold procPrewrite
  split
  · exact procWriteRegister_settings s
  · exact sameSettings_refl s

theorem procReadNibble_settings (r : Result) (s : State) : sameSettings s (procReadNibble r s).2.2 := by
  have h := sameSettings_trans (sameSettings_trans (sameSettings_trans (sameSettings_trans (sameSettings_trans
    (sameSettings_trans (stage_settings (.d 0xF#4) s) (procPrewrite_settings r _)) (stage_settings (.e true) _))
    (procWriteRegister_settings _)) (memRead_settings _)) (stage_settings (.e false) _)) (procWriteRegister_settings _)
  unfold procReadNibble
  dsimp only
  split <;> exact h

theorem procReadRegister_settings (s : State) : sameSettings s (procReadRegister s).2.2 := by
  unfold procReadRegister
  split
  · exact sameSettings_trans (sameSettings_trans (sameSettings_trans (stage_settings _ s) (stage_settings _ _))
      (procReadNibble_settings _ _)) (procReadNibble_settings _ _)
  · exact sameSettings_refl s

theorem procStageNibble_settings (n : Nibble) (s : State) : sameSettings s (procStageNibble n s) := by
  unfold procStageNibble
  split
  · exact sameSettings_trans (stage_settings _ s) (procWriteRegister_settings _)
  · exact stage_settings _ s

theorem procTwoLatches_settings (rs : Bool) (v : Byte) (s : State) : sameSettings s (procTwoLatches rs v s) := by
  unfold procTwoLatches
  exact sameSettings_trans (sameSettings_trans (sameSettings_trans (sameSettings_trans (sameSettings_trans
    (stage_settings _ s) (stage_settings _ _)) (procStageNibble_settings _ _)) (procLatch_settings _))
    (procStageNibble_settings _ _)) (procLatch_settings _)

theorem procRawNibble_settings (n : Nibble) (s : State) : sameSettings s (procRawNibble n s).2 := by
  unfold procRawNibble
  exact sameSettings_trans (sameSettings_trans (sameSettings_trans
    (stage_settings _ s) (stage_settings _ _)) (procStageNibble_settings _ _)) (procLatch_settings _)

theorem procPoll_settings (fuel : Nat) {s s' : State} {r : Result} (h : procPoll fuel s = some (r, s')) :
    sameSettings s s' := by
  induction fuel generalizing s with
  | zero => cases h
  | succ fuel ih =>
    rw [procPoll] at h
    have hs := procReadRegister_settings s
    rcases hp : procReadRegister s with ⟨_ | f, sr, s1⟩ <;> rw [hp] at h hs <;> dsimp only at h hs
    · split at h
      · exact sameSettings_trans hs (ih h)
      · cases h; exact hs
    · cases h; exact hs

theorem procWriteByte_settings {fuel : Nat} {rs : Bool} {v : Byte} {s s' : State} {r : Result}
    (h : procWriteByte fuel rs v s = some (r, s')) : sameSettings s s' :=
  sameSettings_trans (procTwoLatches_settings rs v s) (procPoll_settings fuel h)

theorem procBytes_settings {fuel : Nat} {rs : Bool} {vs : List Byte} {p p' : Result × State}
    (h : procBytes fuel rs vs p = some p') : sameSettings p.2 p'.2 := by
  induction vs generalizing p with
  | nil => cases h; exact sameSettings_refl _
  | cons v vs ih =>
    rw [procBytes] at h
    rcases hq : procWriteByte fuel rs v p.2 with _ | ⟨r, s1⟩ <;> rw [hq] at h <;> dsimp only at h
    · cases h
    · exact sameSettings_trans (procWriteByte_settings hq) (ih h)

theorem sameSettings.reset {s t : State} (h : sameSettings s t) (hr : s.resetReq = false) : t.resetReq = false := by
  rw [h.2.2.2.2.2, hr]

/-! ### writeRegister, latch -/

/-- With a connection held a `writeRegister()` is one transfer. -/
theorem writeReg_held {s : State} (hr : s.resetReq = false) (ho : s.isOpen = true) (d : Dest) (k : List Op) (w : Work) :
    Leads 1 (.writeReg d :: k) w s k (w.report d s.memWrite.1) s.memWrite.2 := by
  refine Leads.event (by simpa using hr) ?_
  rw [advance, if_pos ho]

theorem closeConn_within {s : State} (hr : s.resetReq = false) (k : List Op) (w : Work) :
    LeadsWithin 1 (.closeConn :: k) w s k w (procClose s) := by
  unfold procClose
  by_cases h : (s.isOpen && !s.excl) = true
  · rw [if_pos h]
    exact ⟨1, Nat.le_refl 1, Leads.event (by simpa using hr) (by rw [advance, if_pos h])⟩
  · rw [if_neg h]
    exact ⟨0, Nat.zero_le 1, Leads.quiet (by rw [advance, if_neg h])⟩

theorem closeConn_leads {s : State} (hr : s.resetReq = false) (k : List Op) (w : Work) :
    LeadsTo (.closeConn :: k) w s k w (procClose s) := (closeConn_within hr k w).leadsTo

/-- A `writeRegister()` is at most three bus events. -/
theorem writeReg_within {s : State} (hr : s.resetReq = false) (d : Dest) (k : List Op) (w : Work) :
    LeadsWithin 3 (.writeReg d :: k) w s k (w.report d (procWriteRegister s).1) (procWriteRegister s).2 := by
  unfold procWriteRegister
  by_cases ho : s.isOpen = true
  · rw [if_pos ho]
    exact ⟨1, by decide, writeReg_held hr ho d k w⟩
  · rw [if_neg ho]
    unfold procOpen
    rw [if_neg ho]
    cases hd : s.dev with
    | none => exact ⟨0, by decide, Leads.quiet (by rw [advance, if_neg ho]; simp only [hd])⟩
    | some n =>
      dsimp only
      rcases hb : s.busOpen n with ⟨_ | f, s1⟩ <;> dsimp only
      · have hr1 : s1.resetReq = false := (busOpen_sameSettings hb).reset hr
        have ho1 : s1.isOpen = true := by rw [(busOpen_ok hb).2]; rfl
        refine LeadsWithin.trans (a := 2) (b := 1) ?_ (closeConn_within (s := s1.memWrite.2) (by simpa using hr1) k _)
        refine LeadsWithin.trans (a := 1) (b := 1)
          ⟨1, Nat.le_refl 1, Leads.event (k' := .sendTransient d :: .closeConn :: k) (w' := w) (s' := s1) hr1
            (by rw [advance, if_neg ho]; simp only [hd, hb])⟩
          ⟨1, Nat.le_refl 1, Leads.event (k' := .closeConn :: k) (w' := w.report d s1.memWrite.1)
            (s' := s1.memWrite.2) (by simpa using hr1) (by rw [advance, if_pos ho1])⟩
      · exact ⟨1, by decide, Leads.event ((busOpen_sameSettings hb).reset hr)
          (by rw [advance, if_neg ho]; simp only [hd, hb])⟩

theorem writeReg_leads {s : State} (hr : s.resetReq = false) (d : Dest) (k : List Op) (w : Work) :
    LeadsTo (.writeReg d :: k) w s k (w.report d (procWriteRegister s).1) (procWriteRegister s).2 :=
  (writeReg_within hr d k w).leadsTo

theorem stage_leads (f : Stage) (k : List Op) (w : Work) (s : State) : Leads 0 (.stage f :: k) w s k w (s.stage f) :=
  Leads.quiet (by rw [advance])

theorem stage_leadsTo (f : Stage) (k : List Op) (w : Work) (s : State) : LeadsTo (.stage f :: k) w s k w (s.stage f) :=
  ⟨0, stage_leads f k w s⟩

theorem stage_within (f : Stage) (k : List Op) (w : Work) (s : State) :
    LeadsWithin 0 (.stage f :: k) w s k w (s.stage f) := ⟨0, Nat.le_refl 0, stage_leads f k w s⟩

/-- `latch()`: both writes, each reported, at most six bus events. -/
theorem latch_within {s : State} (hr : s.resetReq = false) (d : Dest) (k : List Op) (w : Work) :
    LeadsWithin 6 (latchOps d ++ k) w s k (w.report d (procLatch s).1) (procLatch s).2 := by
  have h1 := procWriteRegister_settings (s.stage (.e true))
  have hr1 : (procWriteRegister (s.stage (.e true))).2.resetReq = false := h1.reset hr
  have step1 := (stage_within (.e true) _ w s).trans
    (writeReg_within (s := s.stage (.e true)) hr d (.stage (.e false) :: .writeReg d :: k) w)
  have step2 := (stage_within (.e false) (.writeReg d :: k)
    (w.report d (procWriteRegister (s.stage (.e true))).1) (procWriteRegister (s.stage (.e true))).2).trans
    (writeReg_within (s := (procWriteRegister (s.stage (.e true))).2.stage (.e false)) hr1 d k _)
  have h := step1.trans step2
  have e : ∀ r1 r2, (w.report d r1).report d r2 = w.report d (acc r1 r2) := by
    intro r1 r2
    cases d
    · rfl
    · simp [Work.report, Work.addResult, acc_assoc]
    · simp [Work.report, acc_assoc]
  rw [e] at h
  exact h

theorem latch_leads {s : State} (hr : s.resetReq = false) (d : Dest) (k : List Op) (w : Work) :
    LeadsTo (latchOps d ++ k) w s k (w.report d (procLatch s).1) (procLatch s).2 := (latch_within hr d k w).leadsTo

theorem stageNibble_leads {s : State} (hr : s.resetReq = false) (n : Nibble) (k : List Op) (w : Work) :
    LeadsTo (stageNibbleOps s.cfg n ++ k) w s k w (procStageNibble n s) := by
  unfold stageNibbleOps prewriteOps procStageNibble
  refine LeadsTo.trans (stage_leadsTo (.d n) _ w s) ?_
  by_cases hp : s.cfg.prewrite = true
  · simp only [hp, if_true]
    exact writeReg_leads (s := s.stage (.d n)) hr .discard k w
  · simp only [hp]
    exact LeadsTo.refl _ _ _

theorem rawNibble_leads {s : State} (hr : s.resetReq = false) (n : Nibble) (k : List Op) (w : Work) :
    LeadsTo (rawNibbleOps s.cfg n ++ k) w s k (w.addResult (procRawNibble n s).1) (procRawNibble n s).2 := by
  unfold rawNibbleOps procRawNibble
  simp only [List.append_assoc, List.cons_append, List.nil_append]
  refine LeadsTo.trans (stage_leadsTo (.rs false) _ w s) ?_
  refine LeadsTo.trans (stage_leadsTo (.rw false) _ w _) ?_
  refine LeadsTo.trans (stageNibble_leads (s := (s.stage (.rs false)).stage (.rw false)) hr n _ w) ?_
  exact latch_leads ((procStageNibble_settings n ((s.stage (.rs false)).stage (.rw false))).reset hr) .result k w

/-! ### readRegister -/

theorem procWriteRegister_open {s : State} (ho : s.isOpen = true) : procWriteRegister s = s.memWrite := by
  unfold procWriteRegister; rw [if_pos ho]

/-- Bus events of one `if PREWRITE: writeRegister()` in a held connection. -/
def prewriteCost (c : Config) : Nat := if c.prewrite then 1 else 0

theorem procPrewrite_open {r : Result} {s : State} (ho : s.isOpen = true) : (procPrewrite r s).2.isOpen = true := by
  unfold procPrewrite
  split
  · rw [procWriteRegister_open ho]; exact ho
  · exact ho

theorem prewriteRead_leads {s : State} (hr : s.resetReq = false) (ho : s.isOpen = true) (k : List Op) (w : Work) :
    Leads (prewriteCost s.cfg) (prewriteOps s.cfg .read ++ k) w s
      k { w with rd := (procPrewrite w.rd s).1 } (procPrewrite w.rd s).2 := by
  unfold prewriteOps procPrewrite prewriteCost
  by_cases hp : s.cfg.prewrite = true
  · simp only [hp, if_true, procWriteRegister_open ho]
    exact writeReg_held hr ho .read k w
  · simp only [hp]
    exact Leads.refl _ _ _

theorem sample_leads {s : State} (hr : s.resetReq = false) (ho : s.isOpen = true) (h : Half) (k : List Op) (w : Work) :
    Leads 1 (.sample h :: k) w s k (w.sampled s.cfg.layout h s.memRead.1) s.memRead.2 :=
  Leads.event (by simpa using hr) (by rw [advance, if_pos ho])

/-- One turn of the loop of `readRegister()` as micro-operations. -/
def nibbleOps (c : Config) (h : Half) : List Op :=
  .stage (.d 0xF#4) :: (prewriteOps c .read ++
    [.stage (.e true), .writeReg .read, .sample h, .stage (.e false), .writeReg .read])

/-- The result and the nibble of a turn, put into the working registers. -/
def Work.turned (h : Half) (rd : Result) (n : Nibble) (w : Work) : Work :=
  match h with
  | .high => { w with rd := rd, nh := n }
  | .low => { w with rd := rd, nl := n }

/-- The nibble register of a half. -/
def Work.nibble (h : Half) (w : Work) : Nibble :=
  match h with
  | .high => w.nh
  | .low => w.nl

theorem nibble_leads {s : State} (hr : s.resetReq = false) (ho : s.isOpen = true) (h : Half) (k : List Op) (w : Work)
    (hn : w.nibble h = 0#4) :
    Leads (3 + prewriteCost s.cfg) (nibbleOps s.cfg h ++ k) w s
      k (w.turned h (procReadNibble w.rd s).1 (procReadNibble w.rd s).2.1) (procReadNibble w.rd s).2.2 := by
  have s1 := stage_leads (.d 0xF#4) (prewriteOps s.cfg .read ++
    ([.stage (.e true), .writeReg .read, .sample h, .stage (.e false), .writeReg .read] ++ k)) w s
  have s2 := prewriteRead_leads (s := s.stage (.d 0xF#4)) hr ho
    ([.stage (.e true), .writeReg .read, .sample h, .stage (.e false), .writeReg .read] ++ k) w
  have hs2 := procPrewrite_settings w.rd (s.stage (.d 0xF#4))
  have ho2 := procPrewrite_open (r := w.rd) (s := s.stage (.d 0xF#4)) ho
  have s3 := stage_leads (.e true) ([.writeReg .read, .sample h, .stage (.e false), .writeReg .read] ++ k)
    { w with rd := (procPrewrite w.rd (s.stage (.d 0xF#4))).1 } (procPrewrite w.rd (s.stage (.d 0xF#4))).2
  have s4 := writeReg_held (s := (procPrewrite w.rd (s.stage (.d 0xF#4))).2.stage (.e true)) (hs2.reset hr) ho2 .read
    ([.sample h, .stage (.e false), .writeReg .read] ++ k) { w with rd := (procPrewrite w.rd (s.stage (.d 0xF#4))).1 }
  have hr4 : ((procPrewrite w.rd (s.stage (.d 0xF#4))).2.stage (.e true)).memWrite.2.resetReq = false := by
    simpa using hs2.reset hr
  have s5 := sample_leads (s := ((procPrewrite w.rd (s.stage (.d 0xF#4))).2.stage (.e true)).memWrite.2) hr4 ho2 h
    ([.stage (.e false), .writeReg .read] ++ k)
    ({ w with rd := (procPrewrite w.rd (s.stage (.d 0xF#4))).1 }.report .read
      ((procPrewrite w.rd (s.stage (.d 0xF#4))).2.stage (.e true)).memWrite.1)
  have s6 := stage_leads (.e false) ([.writeReg .read] ++ k)
    (({ w with rd := (procPrewrite w.rd (s.stage (.d 0xF#4))).1 }.report .read
      ((procPrewrite w.rd (s.stage (.d 0xF#4))).2.stage (.e true)).memWrite.1).sampled
        ((procPrewrite w.rd (s.stage (.d 0xF#4))).2.stage (.e true)).memWrite.2.cfg.layout h
        ((procPrewrite w.rd (s.stage (.d 0xF#4))).2.stage (.e true)).memWrite.2.memRead.1)
    ((procPrewrite w.rd (s.stage (.d 0xF#4))).2.stage (.e true)).memWrite.2.memRead.2
  have s7 := writeReg_held
    (s := ((procPrewrite w.rd (s.stage (.d 0xF#4))).2.stage (.e true)).memWrite.2.memRead.2.stage (.e false))
    (by simpa using hr4) (by simpa using ho2) .read k
    (({ w with rd := (procPrewrite w.rd (s.stage (.d 0xF#4))).1 }.report .read
      ((procPrewrite w.rd (s.stage (.d 0xF#4))).2.stage (.e true)).memWrite.1).sampled
        ((procPrewrite w.rd (s.stage (.d 0xF#4))).2.stage (.e true)).memWrite.2.cfg.layout h
        ((procPrewrite w.rd (s.stage (.d 0xF#4))).2.stage (.e true)).memWrite.2.memRead.1)
  have all := (((((s1.trans s2).trans s3).trans s4).trans s5).trans s6).trans s7
  have hl : ((procPrewrite w.rd (s.stage (.d 0xF#4))).2.stage (.e true)).memWrite.2.cfg.layout = s.cfg.layout := by
    simp [hs2.1]
  rw [hl] at all
  have ec : 1 + (0 + (1 + (1 + (0 + (prewriteCost (s.stage (.d 0xF#4)).cfg + 0))))) = 3 + prewriteCost s.cfg := by
    simp; omega
  rw [ec] at all
  have el : nibbleOps s.cfg h ++ k = .stage (.d 0xF#4) :: (prewriteOps s.cfg .read ++
    ([.stage (.e true), .writeReg .read, .sample h, .stage (.e false), .writeReg .read] ++ k)) := by
    simp [nibbleOps]
  rw [el]
  unfold procReadNibble
  dsimp only
  rw [procWriteRegister_open (s := (procPrewrite w.rd (s.stage (.d 0xF#4))).2.stage (.e true)) ho2]
  rw [procWriteRegister_open
    (s := ((procPrewrite w.rd (s.stage (.d 0xF#4))).2.stage (.e true)).memWrite.2.memRead.2.stage (.e false))
    (by simpa using ho2)]
  rcases hm : ((procPrewrite w.rd (s.stage (.d 0xF#4))).2.stage (.e true)).memWrite.2.memRead.1 with v | c <;>
    rw [hm] at all <;> dsimp only
  · cases h <;> exact all
  · cases h
    · have : w = { w with nh := 0#4 } := by rw [← show w.nh = 0#4 from hn]
      rw [this] at all ⊢
      exact all
    · have : w = { w with nl := 0#4 } := by rw [← show w.nl = 0#4 from hn]
      rw [this] at all ⊢
      exact all

/-- `readRegister()` with a connection held, as micro-operations. -/
def readOps (c : Config) (u : ReadUse) : List Op :=
  .stage (.rs false) :: .stage (.rw true) :: (nibbleOps c .high ++ (nibbleOps c .low ++ [.readEnd u]))

/-- The working registers at the start of a status read. -/
def Work.readFresh (w : Work) : Work := { w with rd := .ok, nh := 0#4, nl := 0#4 }

/-- The first event of a status read is the one its list of micro-operations starts with. -/
theorem startRead_eq {s : State} (ho : s.isOpen = true) (u : ReadUse) (k : List Op) (w : Work) :
    (.next (startRead u k w s) : Host.Outcome State Fault Refusal) = advance (readOps s.cfg u ++ k) w.readFresh s := by
  unfold startRead readOps nibbleOps readTail prewriteOps Work.readFresh
  by_cases hp : s.cfg.prewrite = true
  · simp only [hp, if_true, List.cons_append, List.nil_append, advance, State.stage_isOpen, ho, Work.report]
  · simp only [hp, Bool.false_eq_true, if_false, List.cons_append, List.nil_append, advance, State.stage_isOpen, ho,
      if_true, Work.report]

theorem procReadNibble_open {r : Result} {s : State} (ho : s.isOpen = true) :
    (procReadNibble r s).2.2.isOpen = true := by
  have h2 := procPrewrite_open (r := r) (s := s.stage (.d 0xF#4)) ho
  unfold procReadNibble
  dsimp only
  rw [procWriteRegister_open (s := (procPrewrite r (s.stage (.d 0xF#4))).2.stage (.e true)) h2]
  rw [procWriteRegister_open (by simpa using h2)]
  split <;> simpa using h2

/-- A status read with a connection held leads to its end, with `RES`, `NH` and `NL` as the procedure has them. -/
theorem readOps_leads {s : State} (hr : s.resetReq = false) (ho : s.isOpen = true) (u : ReadUse) (k : List Op)
    (w : Work) :
    ∃ nh nl, joinNibbles nh nl = (procReadRegister s).2.1 ∧
      Leads (6 + 2 * prewriteCost s.cfg) (readOps s.cfg u ++ k) w.readFresh s
        (.readEnd u :: k) { w with rd := (procReadRegister s).1, nh := nh, nl := nl } (procReadRegister s).2.2 := by
  have a1 := stage_leads (.rs false)
    (.stage (.rw true) :: (nibbleOps s.cfg .high ++ (nibbleOps s.cfg .low ++ .readEnd u :: k))) w.readFresh s
  have a2 := stage_leads (.rw true) (nibbleOps s.cfg .high ++ (nibbleOps s.cfg .low ++ .readEnd u :: k)) w.readFresh
    (s.stage (.rs false))
  have a3 := nibble_leads (s := (s.stage (.rs false)).stage (.rw true)) hr ho .high
    (nibbleOps s.cfg .low ++ .readEnd u :: k) w.readFresh rfl
  have hs := procReadNibble_settings .ok ((s.stage (.rs false)).stage (.rw true))
  have ho2 := procReadNibble_open (r := .ok) (s := (s.stage (.rs false)).stage (.rw true)) ho
  have a4 := nibble_leads (s := (procReadNibble .ok ((s.stage (.rs false)).stage (.rw true))).2.2) (hs.reset hr) ho2 .low
    (.readEnd u :: k) (w.readFresh.turned .high (procReadNibble .ok ((s.stage (.rs false)).stage (.rw true))).1
      (procReadNibble .ok ((s.stage (.rs false)).stage (.rw true))).2.1) rfl
  have hc : (procReadNibble .ok ((s.stage (.rs false)).stage (.rw true))).2.2.cfg = s.cfg := hs.1
  rw [hc] at a4
  have all := ((a1.trans a2).trans a3).trans a4
  have ec : 3 + prewriteCost s.cfg +
      (3 + prewriteCost ((s.stage (.rs false)).stage (.rw true)).cfg + (0 + 0)) = 6 + 2 * prewriteCost s.cfg := by
    simp only [State.stage_cfg]; omega
  rw [ec] at all
  have el : readOps s.cfg u ++ k = .stage (.rs false) :: .stage (.rw true) ::
      (nibbleOps s.cfg .high ++ (nibbleOps s.cfg .low ++ .readEnd u :: k)) := by
    simp [readOps]
  rw [el]
  unfold procReadRegister
  rw [if_pos ho]
  exact ⟨_, _, rfl, all⟩

/-- `RDREG`, `GETSTAT` and the polls: a status read with a connection held. -/
theorem readStart_leads {s : State} (hr : s.resetReq = false) (ho : s.isOpen = true) (u : ReadUse) (k : List Op)
    (w : Work) :
    ∃ nh nl, joinNibbles nh nl = (procReadRegister s).2.1 ∧
      Leads (6 + 2 * prewriteCost s.cfg) (.readStart u :: k) w s
        (.readEnd u :: k) { w with rd := (procReadRegister s).1, nh := nh, nl := nl } (procReadRegister s).2.2 := by
  obtain ⟨nh, nl, hj, hl⟩ := readOps_leads hr ho u k w
  refine ⟨nh, nl, hj, ?_⟩
  have e : advance (.readStart u :: k) w s = advance (readOps s.cfg u ++ k) w.readFresh s := by
    rw [advance, if_pos ho, startRead_eq ho]
  intro n
  rw [e]
  exact hl n

theorem readStart_closed {s : State} (ho : ¬s.isOpen = true) (u : ReadUse) (k : List Op) (w : Work) :
    advance (.readStart u :: k) w s = advance k (w.addResult (.err .notConnected)) s := by
  rw [advance, if_neg ho]

theorem procReadRegister_closed {s : State} (ho : ¬s.isOpen = true) :
    procReadRegister s = (.err .notConnected, 0#8, s) := by
  unfold procReadRegister; rw [if_neg ho]

/-- The end of a busy status read starts the next one. -/
theorem readEnd_again {s : State} {w : Work} (h : w.rd = .ok) (hb : busyOf (joinNibbles w.nh w.nl) = true)
    (k : List Op) : advance (.readEnd .poll :: k) w s = advance (.readStart .poll :: k) w s := by
  rw [advance_readEnd_busy h hb, advance]

/-! ### The busy-poll and writeByte -/

/-- The working registers answer the same result and values (they may differ in what a status read leaves behind). -/
def SameAnswer (w w' : Work) : Prop := w'.resp = w.resp

theorem addResult_resp_congr {w w' : Work} (h : SameAnswer w w') (r : Result) :
    SameAnswer (w.addResult r) (w'.addResult r) := by
  unfold SameAnswer Work.addResult at *; simp only [h]

/-- A busy-poll that returns ends as its procedure says. -/
theorem poll_leads (fuel : Nat) {s s' : State} {r : Result} (hr : s.resetReq = false)
    (h : procPoll fuel s = some (r, s')) (k : List Op) (w : Work) :
    ∃ w', SameAnswer (w.addResult r) w' ∧ LeadsTo (.readStart .poll :: k) w s k w' s' := by
  induction fuel generalizing s w with
  | zero => cases h
  | succ fuel ih =>
    rw [procPoll] at h
    by_cases ho : s.isOpen = true
    · obtain ⟨nh, nl, hj, hl⟩ := readStart_leads hr ho .poll k w
      have hs := procReadRegister_settings s
      rcases hp : procReadRegister s with ⟨_ | f, sr, s1⟩ <;> rw [hp] at h hs hl hj <;> dsimp only at h hs hl hj
      · by_cases hb : busyOf sr = true
        · rw [if_pos hb] at h
          obtain ⟨w', hw, hg⟩ := ih (hs.reset hr) h { w with rd := .ok, nh := nh, nl := nl }
          refine ⟨w', hw, LeadsTo.trans ⟨_, hl⟩ (LeadsTo.trans (LeadsTo.quiet ?_) hg)⟩
          exact readEnd_again rfl (by rw [hj]; exact hb) k
        · rw [if_neg hb] at h
          cases h
          refine ⟨{ w with rd := .ok, nh := nh, nl := nl }, rfl, LeadsTo.trans ⟨_, hl⟩ (LeadsTo.quiet ?_)⟩
          exact advance_readEnd_ok rfl (by simp [hj, hb])
      · cases h
        exact ⟨Work.addResult (.err f) { w with rd := .err f, nh := nh, nl := nl }, rfl,
          LeadsTo.trans ⟨_, hl⟩ (LeadsTo.quiet (advance_readEnd_err rfl))⟩
    · rw [procReadRegister_closed ho] at h
      cases h
      exact ⟨w.addResult (.err .notConnected), rfl, LeadsTo.quiet (readStart_closed ho .poll k w)⟩

/-- The two latch cycles of `writeByte()`, with the poll to follow. -/
theorem twoLatches_leads {s : State} (hr : s.resetReq = false) (rs : Bool) (v : Byte) (k : List Op) (w : Work) :
    LeadsTo (writeByteOps s.cfg rs v ++ k) w s (.readStart .poll :: k) w (procTwoLatches rs v s) := by
  have hs1 := procStageNibble_settings (highNibble v) ((s.stage (.rs rs)).stage (.rw false))
  have hs2 := sameSettings_trans hs1 (procLatch_settings _)
  have hs3 := sameSettings_trans hs2 (procStageNibble_settings (lowNibble v) _)
  have hc : (procLatch (procStageNibble (highNibble v) ((s.stage (.rs rs)).stage (.rw false)))).2.cfg = s.cfg := hs2.1
  unfold writeByteOps procTwoLatches
  simp only [List.append_assoc, List.cons_append, List.nil_append]
  refine LeadsTo.trans (stage_leadsTo (.rs rs) _ w s) ?_
  refine LeadsTo.trans (stage_leadsTo (.rw false) _ w _) ?_
  refine LeadsTo.trans (stageNibble_leads (s := (s.stage (.rs rs)).stage (.rw false)) hr (highNibble v) _ w) ?_
  refine LeadsTo.trans (latch_leads (hs1.reset hr) .discard _ w) ?_
  have g := stageNibble_leads (hs2.reset hr) (lowNibble v) (latchOps .discard ++ .readStart .poll :: k) w
  rw [hc] at g
  refine LeadsTo.trans g ?_
  exact latch_leads (hs3.reset hr) .discard _ w

/-- A `writeByte()` that returns ends as its procedure says. -/
theorem writeByte_leads {fuel : Nat} {rs : Bool} {v : Byte} {s s' : State} {r : Result} (hr : s.resetReq = false)
    (h : procWriteByte fuel rs v s = some (r, s')) (k : List Op) (w : Work) :
    ∃ w', SameAnswer (w.addResult r) w' ∧ LeadsTo (writeByteOps s.cfg rs v ++ k) w s k w' s' := by
  obtain ⟨w', hw, hg⟩ := poll_leads fuel ((procTwoLatches_settings rs v s).reset hr) h k w
  exact ⟨w', hw, (twoLatches_leads hr rs v k w).trans hg⟩

/-- A run of `writeByte()` steps that returns ends as its procedure says; the results accumulate (00_scope.md R11). -/
theorem bytes_leads {fuel : Nat} {rs : Bool} {vs : List Byte} {s s' : State} {r r' : Result} (hr : s.resetReq = false)
    (h : procBytes fuel rs vs (r, s) = some (r', s')) (k : List Op) (w : Work) (hw : w.resp.result = r) :
    ∃ w', w'.resp = { w.resp with result := r' } ∧
      LeadsTo (vs.flatMap (writeByteOps s.cfg rs) ++ k) w s k w' s' := by
  induction vs generalizing s r w with
  | nil =>
    cases h
    refine ⟨w, ?_, LeadsTo.refl _ _ _⟩
    rw [← hw]
  | cons v vs ih =>
    rw [procBytes] at h
    dsimp only at h
    rcases hq : procWriteByte fuel rs v s with _ | ⟨q, s1⟩ <;> rw [hq] at h <;> dsimp only at h
    · cases h
    · have hs := procWriteByte_settings hq
      obtain ⟨w1, hw1, hg1⟩ := writeByte_leads hr hq (vs.flatMap (writeByteOps s.cfg rs) ++ k) w
      have hw1' : w1.resp = { w.resp with result := acc r q } := by rw [hw1, ← hw]; rfl
      obtain ⟨w2, hw2, hg2⟩ := ih (hs.reset hr) h w1 (by rw [hw1'])
      rw [hs.1] at hg2
      refine ⟨w2, by rw [hw2, hw1'], ?_⟩
      simp only [List.flatMap_cons, List.append_assoc]
      exact hg1.trans hg2

/-! ### Running an accepted command -/

/-- A list of micro-operations that leads to its end is a run of the accepted command. -/
theorem accept_finish {k : List Op} {w' : Work} {s s' : State} (hr : s.resetReq = false)
    (h : LeadsTo k (Work.fresh k Response.plain) s [] w' s') :
    ∃ n, drive n (s.accept k) = .next (s'.answered w'.resp) := by
  obtain ⟨n, hn⟩ := h.finish
  exact ⟨n + 1, by rw [drive_accept hr, hn]⟩

end Sys2Proof.Machine
end

