-- ==== Sys2Proof/Laws/Step.lean ====
section
/-! SUPPORT. Everything one step can do, said once: the five ends of an `advance`, and the four kinds of step. -/

namespace Sys2Proof.Machine

/-- `s` with the image `g`. -/
def State.withImg (g : Img) (s : State) : State := { s with img := g }

/-- What an `advance` from `s` ends in, after it has staged the image `g`: the response, or one bus event. -/
inductive Ends (s : State) (g : Img) : State → Prop where
  /-- no event is left: the response. -/
  | answer (r : Response) : Ends s g ((s.withImg g).answered r)
  /-- a `MemWrite`. -/
  | write (ho : s.isOpen = true) (k : List Op) (w : Work) : Ends s g ((s.withImg g).memWrite.2.park k w)
  /-- a `MemRead`. -/
  | read (ho : s.isOpen = true) (k : List Op) (w : Work) : Ends s g ((s.withImg g).memRead.2.park k w)
  /-- a `BusClose`. -/
  | close (ho : s.isOpen = true) (hx : s.excl = false) (k : List Op) (w : Work) : Ends s g ((s.withImg g).busClose.park k w)
  /-- a `BusOpen`, whatever its answer. -/
  | opening (ho : s.isOpen = false) (name : List Byte) (hd : s.dev = some name) (k : List Op) (w : Work) :
      Ends s g (((s.withImg g).busOpen name).2.park k w)

theorem startRead_ends (u : ReadUse) (k : List Op) (w : Work) {s : State} (ho : s.isOpen = true) :
    ∃ g, Ends s g (startRead u k w s) := by
  unfold startRead
  by_cases hp : s.cfg.prewrite = true
  · simp only [hp, if_true]
    exact ⟨_, Ends.write ho _ _⟩
  · simp only [hp]
    exact ⟨_, Ends.write ho _ _⟩

theorem Ends.staged {s t : State} {f : Stage} (h : ∃ g, Ends (s.stage f) g t) : ∃ g, Ends s g t := by
  obtain ⟨g, h⟩ := h
  refine ⟨g, ?_⟩
  cases h with
  | answer r => exact Ends.answer (s := s) (g := g) r
  | write ho k w => exact Ends.write (s := s) (g := g) ho k w
  | read ho k w => exact Ends.read (s := s) (g := g) ho k w
  | close ho hx k w => exact Ends.close (s := s) (g := g) ho hx k w
  | opening ho n hd k w => exact Ends.opening (s := s) (g := g) ho n hd k w

/-- Everything one step of a running procedure can do (10_state.md R33). -/
theorem advance_ends (k : List Op) (w : Work) (s t : State) (h : advance k w s = .next t) : ∃ g, Ends s g t := by
  fun_induction advance k w s with
  | case2 f k w s ih => exact Ends.staged (ih h)
  | case3 k w s _ ih | case8 k w s _ ih | case10 d k w s _ _ ih | case16 u k w s _ ih | case19 u k w s _ _ ih
  | case21 u k w s _ _ _ ih | case22 u k w s _ _ ih => exact ih h
  | case1 | case4 => cases h; exact ⟨_, Ends.answer _⟩
  | case5 k w s ho n hd s1 hb | case6 k w s ho n hd f s1 hb | case11 d k w s ho n hd s1 hb
  | case12 d k w s ho n hd f s1 hb =>
    cases h
    have e : s1 = (s.busOpen n).2 := by rw [hb]
    rw [e]
    exact ⟨s.img, Ends.opening (by simpa using ho) n hd _ _⟩
  | case7 k w s ho =>
    cases h
    rw [Bool.and_eq_true, Bool.not_eq_true'] at ho
    exact ⟨s.img, Ends.close ho.1 ho.2 _ _⟩
  | case9 d k w s ho | case13 d k w s ho => cases h; exact ⟨s.img, Ends.write ho _ _⟩
  | case17 hf k w s ho => cases h; exact ⟨s.img, Ends.read ho _ _⟩
  | case15 u k w s ho | case20 u k w s _ _ ho => cases h; exact startRead_ends _ _ _ ho
  | case14 | case18 => cases h

/-- What accepting a command does and does not change (10_state.md R33; log entry 1). -/
structure Accepted (i : Instr) (s t : State) : Prop where
  cfg : t.cfg = s.cfg
  img : t.img = s.img
  isOpen : t.isOpen = s.isOpen
  laddr : t.laddr = s.laddr
  ldev : t.ldev = s.ldev
  host : t.host = s.host
  responses : t.responses = s.responses
  env : t.env = s.env
  trace : t.trace = s.trace
  resetReq : t.resetReq = s.resetReq
  excl : t.excl = s.excl ∨ i = .setexcl t.excl
  addr : t.addr = s.addr ∨ i = .setaddr t.addr
  dev : t.dev = s.dev ∨ i = .setdev t.dev
  running : ∃ w, t.seq = .running w

theorem exec_accepted {i : Instr} {s t : State} (h : exec i s = .next t) : Accepted i s t := by
  cases i with
  | setexcl f => cases h; exact ⟨rfl, rfl, rfl, rfl, rfl, rfl, rfl, rfl, rfl, rfl, .inr rfl, .inl rfl, .inl rfl, _, rfl⟩
  | setaddr a => cases h; exact ⟨rfl, rfl, rfl, rfl, rfl, rfl, rfl, rfl, rfl, rfl, .inl rfl, .inr rfl, .inl rfl, _, rfl⟩
  | setdev p => cases h; exact ⟨rfl, rfl, rfl, rfl, rfl, rfl, rfl, rfl, rfl, rfl, .inl rfl, .inl rfl, .inr rfl, _, rfl⟩
  | line off t =>
    cases t <;> cases h <;>
      exact ⟨rfl, rfl, rfl, rfl, rfl, rfl, rfl, rfl, rfl, rfl, .inl rfl, .inl rfl, .inl rfl, _, rfl⟩
  | openBus | closeBus | wrreg | latch | rdreg | setbl f | getbl | getexcl | getaddr | getdev | init | wrbyte rs v
  | clear | home | setdda off | cursmode | getstat =>
    cases h; exact ⟨rfl, rfl, rfl, rfl, rfl, rfl, rfl, rfl, rfl, rfl, .inl rfl, .inl rfl, .inl rfl, _, rfl⟩

/-- The kinds of step. -/
inductive StepKind (s : State) : State → Prop where
  /-- a reset event. -/
  | reset (h : s.resetReq = true) : StepKind s s.resetEvent
  /-- one step of a running command. -/
  | run (h : s.resetReq = false) (w : Work) (hs : s.seq = .running w) (g : Img) (t : State) (he : Ends s g t) : StepKind s t
  /-- the block waits. -/
  | wait (h : s.resetReq = false) (hs : s.seq = .idle) (hh : s.host = []) : StepKind s s
  /-- a command is accepted. -/
  | accept (h : s.resetReq = false) (hs : s.seq = .idle) (p : PortCmd) (ps : List PortCmd) (hh : s.host = p :: ps) (i : Instr)
      (hd : decode s.cfg p = .ok i) (t : State) (ha : Accepted i { s with host := ps } t) : StepKind s t
  /-- an illegal command is accepted. -/
  | illegal (h : s.resetReq = false) (hs : s.seq = .idle) (p : PortCmd) (ps : List PortCmd) (hh : s.host = p :: ps)
      (e : DecodeError) (hd : decode s.cfg p = .illegal e) : StepKind s { s with host := ps }.acceptIllegal

theorem step_kind {s t : State} (h : step s = .next t) : StepKind s t := by
  unfold step at h
  split at h
  · rename_i hr; cases h; exact .reset hr
  · rename_i hr
    rw [Bool.not_eq_true] at hr
    split at h
    · rename_i w hs
      obtain ⟨g, he⟩ := advance_ends _ _ _ _ h
      exact .run hr w hs g t he
    · rename_i hs
      split at h
      · rename_i hh; cases h; exact .wait hr hs hh
      · rename_i p ps hh
        split at h
        · rename_i i hd; exact .accept hr hs p ps hh i hd t (exec_accepted h)
        · rename_i e hd; cases h; exact .illegal hr hs p ps hh e hd

end Sys2Proof.Machine
end

