-- ==== Sys2Proof/Machine/Spelling.lean ====
section
/-! DEFINITION. The spec's own spellings: commands (30_encoding.md R88) and bus traces (R90). -/

namespace Sys2Proof.Machine

/-- One hexadecimal digit, capital. -/
def hexDigit (n : Nibble) : Char :=
  if n.toNat < 10 then Char.ofNat (48 + n.toNat) else Char.ofNat (55 + n.toNat)

/-- Two hexadecimal digits. -/
def hexByte (v : Byte) : List Char := [hexDigit (v.extractLsb' 4 4), hexDigit (v.extractLsb' 0 4)]

/-- `0xHH`. -/
def hexNumber (v : Byte) : List Char := '0' :: 'x' :: hexByte v

/-- A byte inside a quoted string: itself when printable, `\0` for 0x00, else `\xHH` (a quote and a backslash as `\xHH`). -/
def textChar (v : Byte) : List Char :=
  if v = 0#8 then ['\\', '0']
  else if 32 ≤ v.toNat ∧ v.toNat < 127 ∧ v.toNat ≠ 34 ∧ v.toNat ≠ 92 then [Char.ofNat v.toNat]
  else '\\' :: 'x' :: hexByte v

/-- A payload operand: `none`, or the bytes between double quotes (R88). -/
def payloadText : Payload → List Char
  | none => ['n', 'o', 'n', 'e']
  | some bs => Char.ofNat 34 :: bs.flatMap textChar ++ [Char.ofNat 34]

/-- A flag operand. -/
def flagText (f : Bool) : List Char := if f then ['1'] else ['0']

/-- The operands of a command, separated by commas (R88). -/
def operandText : Instr → List Char
  | .setbl f | .setexcl f => ' ' :: flagText f
  | .setaddr v | .setdda v => ' ' :: hexNumber v
  | .setdev p => ' ' :: payloadText p
  | .wrbyte rs v => ' ' :: flagText rs ++ [',', ' '] ++ hexNumber v
  | .line off t => ' ' :: hexNumber off ++ [',', ' '] ++ payloadText t
  | .openBus | .closeBus | .wrreg | .latch | .rdreg | .getbl | .getexcl | .getaddr | .getdev | .init | .clear | .home
  | .cursmode | .getstat => []

/-- A command as the spec writes it: its mnemonic and its operands (R88). -/
def spellInstr (i : Instr) : List Char := i.mnemonic.toList ++ operandText i

/-- A failed transfer's code, in decimal (R90). -/
def codeText (c : ECode) : List Char := (Nat.toDigits 10 c.toNat)

/-- A device name in a trace: the default one is written `dev` (R90). -/
def deviceText (name : List Byte) : List Char :=
  if name = Config.devReset then ['d', 'e', 'v'] else name.flatMap textChar

/-- One event of a bus trace (R90). The target of a transfer is not part of the spelling. -/
def BusEvent.spell : BusEvent → List Char
  | .opened n a r =>
    ['O', '('] ++ deviceText n ++ [','] ++ hexByte a ++ [')'] ++
      match r with
      | .ok => []
      | .addrFail => ['!', 'a', 'd', 'd', 'r']
      | .ioFail c => ['!', 'i', 'o', '('] ++ codeText c ++ [')']
  | .closed => ['C']
  | .wrote _ _ v .ok => 'W' :: hexByte v
  | .wrote _ _ v (.ioFail c) => 'W' :: hexByte v ++ ['!'] ++ codeText c
  | .sampled _ _ (.byte v) => 'R' :: hexByte v
  | .sampled _ _ (.ioFail c) => ['R', '!'] ++ codeText c

/-- A bus trace: its events separated by spaces (R90). -/
def spellTrace : List BusEvent → List Char
  | [] => []
  | [e] => e.spell
  | e :: f :: es => e.spell ++ ' ' :: spellTrace (f :: es)

end Sys2Proof.Machine
end

