-- ==== Sys2Proof/Tests/Slice0.lean ====
section
/-! SUPPORT. Tests: illegal commands refused, words from the spec decoded, one step of each command, and for each statement
with hypotheses a witness. Expected values are those of spec/95_test_vectors.md and of the rules' own examples. -/

namespace Sys2Proof.Machine.Test

/-! ### Helpers -/

/-- The next state, if there is one. -/
def nextOf : Host.Outcome State Fault Refusal → Option State
  | .next t => some t
  | .fault _ => none
  | .refused _ => none

/-- The command is accepted and runs one step. -/
def oneStep (i : Instr) (s : State) : Option State :=
  match nextOf (exec i s) with
  | some t => nextOf (step t)
  | none => none

/-- The spelling of the bus events of that first step (30_encoding.md R90). -/
def firstEvent (i : Instr) (s : State) : Option (List Char) := (oneStep i s).map fun t => spellTrace t.trace

/-- The response word of that step. -/
def answer (i : Instr) (s : State) : Option (List RespWord) := (oneStep i s).map fun t => t.responses.map Response.word

/-- Reset state with an environment that answers as listed. -/
def asked (opens : List OpenAnswer) (writes : List WriteAnswer) (reads : List ReadAnswer) : State :=
  { State.reset with env := { opens := opens, writes := writes, reads := reads, drawn := 0 } }

/-- The same with a connection held. -/
def held (writes : List WriteAnswer) (reads : List ReadAnswer) : State :=
  { asked [] writes reads with isOpen := true, ldev := Config.devReset, laddr := 0x27#8 }

/-- `held` with an image byte (default layout). -/
def heldAt (v : Byte) : State := { held [.ok] [] with img := Img.ofByte Layout.default v }

/-- What the default decoder makes of a word and a payload. -/
def read (w : CmdWord) (p : Payload) : Decoded := decode Config.default { cw := w, payload := p }

/-- `n` characters. -/
def long (n : Nat) : List Byte := List.replicate n 0x41#8
theorem long_length (n : Nat) : (long n).length = n := List.length_replicate

/-! ### Ill-formed commands (30_encoding.md R71, R72; one for each check) -/

theorem test_wf_name_empty : (Instr.setdev (some [])).wellFormed Config.default = false := by decide
theorem test_wf_name_over_max :
    (Instr.setdev (some [0x41#8, 0x42#8])).wellFormed { Config.default with devNameMax := 1 } = false := by decide
theorem test_wf_name_over_port :
    (Instr.setdev (some (long 256))).wellFormed { Config.default with devNameMax := 300 } = false := by
  simp [Instr.wellFormed, Payload.fits, long_length]
theorem test_wf_text_over_port : (Instr.line 0x00#8 (some (long 256))).wellFormed Config.default = false := by
  simp [Instr.wellFormed, Payload.fits, long_length]
theorem test_wf_text_longest : (Instr.line 0x00#8 (some (long 255))).wellFormed Config.default = true := by
  simp [Instr.wellFormed, Payload.fits, long_length]
theorem test_wf_text_empty : (Instr.line 0x00#8 (some [])).wellFormed Config.default = true := by decide

/-! ### Words of 95_test_vectors.md T16, one for each command -/

theorem test_word_open : read 0x010000#24 none = .ok .openBus := by decide
theorem test_word_close : read 0x020000#24 none = .ok .closeBus := by decide
theorem test_word_wrreg : read 0x030000#24 none = .ok .wrreg := by decide
theorem test_word_latch : read 0x040000#24 none = .ok .latch := by decide
theorem test_word_rdreg : read 0x050000#24 none = .ok .rdreg := by decide
theorem test_word_setbl : read 0x080100#24 none = .ok (.setbl true) ∧ read 0x080000#24 none = .ok (.setbl false) := by decide
theorem test_word_getbl : read 0x090000#24 none = .ok .getbl := by decide
theorem test_word_setexcl :
    read 0x0A0100#24 none = .ok (.setexcl true) ∧ read 0x0A0000#24 none = .ok (.setexcl false) := by decide
theorem test_word_getexcl : read 0x0B0000#24 none = .ok .getexcl := by decide
theorem test_word_setaddr : read 0x0C2700#24 none = .ok (.setaddr 0x27#8) := by decide
theorem test_word_getaddr : read 0x0D0000#24 none = .ok .getaddr := by decide
theorem test_word_setdev :
    read 0x0E0000#24 (some Config.devReset) = .ok (.setdev (some Config.devReset)) ∧
    read 0x0E0000#24 none = .ok (.setdev none) := by decide
theorem test_word_getdev : read 0x0F0000#24 none = .ok .getdev := by decide
theorem test_word_init : read 0x100000#24 none = .ok .init := by decide
theorem test_word_wrbyte :
    read 0x110148#24 none = .ok (.wrbyte true 0x48#8) ∧ read 0x110001#24 none = .ok (.wrbyte false 0x01#8) := by decide
theorem test_word_clear : read 0x120000#24 none = .ok .clear := by decide
theorem test_word_home : read 0x130000#24 none = .ok .home := by decide
theorem test_word_setdda : read 0x144000#24 none = .ok (.setdda 0x40#8) := by decide
theorem test_word_cursmode : read 0x150000#24 none = .ok .cursmode := by decide
theorem test_word_line :
    read 0x164000#24 (some [0x48#8, 0x69#8]) = .ok (.line 0x40#8 (some [0x48#8, 0x69#8])) ∧
    read 0x160000#24 none = .ok (.line 0x00#8 none) := by decide
theorem test_word_getstat : read 0x170000#24 none = .ok .getstat := by decide

/-- Legal although unusual (95_test_vectors.md T13, below the table). -/
theorem test_word_unusual :
    read 0x14FF00#24 none = .ok (.setdda 0xFF#8) ∧ read 0x1100FF#24 none = .ok (.wrbyte false 0xFF#8) := by
  decide
theorem test_word_longest_text :
    read 0x16FF00#24 (some (long 255)) = .ok (.line 0xFF#8 (some (long 255))) := by
  simp [read, decode, Payload.fits, long_length]
  rfl

/-! ### Illegal encodings (95_test_vectors.md T13) -/

theorem test_illegal_opcodes :
    read 0x000000#24 none = .illegal .reservedOpcode ∧ read 0x060000#24 none = .illegal .reservedOpcode ∧
    read 0x070000#24 none = .illegal .reservedOpcode ∧ read 0x180000#24 none = .illegal .reservedOpcode ∧
    read 0xFF0000#24 none = .illegal .reservedOpcode := by decide

theorem test_illegal_fields :
    read 0x010001#24 none = .illegal .reservedField ∧ read 0x100100#24 none = .illegal .reservedField ∧
    read 0x080200#24 none = .illegal .reservedField ∧ read 0x080101#24 none = .illegal .reservedField ∧
    read 0x110248#24 none = .illegal .reservedField ∧ read 0x0C5001#24 none = .illegal .reservedField ∧
    read 0x0E0100#24 (some [1#8, 2#8, 3#8, 4#8]) = .illegal .reservedField ∧
    read 0x160001#24 (some [1#8]) = .illegal .reservedField := by decide

theorem test_illegal_payloads :
    read 0x120000#24 (some []) = .illegal .payloadNotTaken ∧ read 0x0E0000#24 (some []) = .illegal .badNameLength := by
  decide
theorem test_illegal_text_too_long : read 0x160000#24 (some (long 256)) = .illegal .payloadTooLong := by
  simp [read, decode, Payload.fits, long_length]

/-- A table word goes through the same decoder. -/
theorem test_table_word : decodeTableWord 24 0x144000 = some (.setdda 0x40#8) ∧ decodeTableWord 24 0x180000 = none := by decide

/-- `step` at a placed word is the acceptance of that command. -/
theorem test_fetch_word :
    nextOf (step (State.reset.withFetchWord 24 0x0C5000)) = nextOf (exec (.setaddr 0x50#8) State.reset) := by decide

/-! ### One step of each command -/

theorem test_open : firstEvent .openBus (asked [.ok] [] []) = some ['O', '(', 'd', 'e', 'v', ',', '2', '7', ')'] := by decide
theorem test_open_no_name : answer .openBus { State.reset with dev := none } = some [0x02000000000000#56] := by decide
theorem test_close : firstEvent .closeBus (held [] []) = some ['C'] := by decide
theorem test_close_exclusive :
    (oneStep .closeBus { held [] [] with excl := true }).map (fun t => (t.isOpen, t.trace)) = some (true, []) := by decide
theorem test_wrreg : firstEvent .wrreg (heldAt 0x48#8) = some ['W', '4', '8'] := by decide
theorem test_wrreg_after_setaddr :
    (oneStep .wrreg { heldAt 0x00#8 with addr := 0x50#8 }).map (·.trace) =
      some [.wrote Config.devReset 0x27#8 0x00#8 .ok] := by decide
theorem test_latch : firstEvent .latch (heldAt 0x48#8) = some ['W', '4', 'C'] := by decide
theorem test_rdreg : firstEvent .rdreg (heldAt 0x01#8) = some ['W', 'F', '6'] := by decide
theorem test_rdreg_closed : answer .rdreg State.reset = some [0x04000000000000#56] := by decide
theorem test_setbl : firstEvent (.setbl true) (heldAt 0xF2#8) = some ['W', 'F', 'A'] := by decide
theorem test_getbl : answer .getbl (heldAt 0x08#8) = some [0x00000001000000#56] := by decide
theorem test_setexcl : (oneStep (.setexcl true) State.reset).map (fun t => (t.excl, t.isOpen)) = some (true, false) := by decide
theorem test_getexcl : answer .getexcl { State.reset with excl := true } = some [0x00000001000000#56] := by decide
theorem test_setaddr :
    (oneStep (.setaddr 0x50#8) (held [] [])).map (fun t => (t.addr, t.laddr)) = some (0x50#8, 0x27#8) := by decide
theorem test_getaddr : answer .getaddr State.reset = some [0x00000027000000#56] := by decide
theorem test_setdev : (oneStep (.setdev none) (held [] [])).map (fun t => (t.dev, t.ldev)) = some (none, Config.devReset) := by
  decide
theorem test_getdev : (oneStep .getdev State.reset).map (fun t => t.responses.map (·.out)) = some [some Config.devReset] := by
  decide
theorem test_init : firstEvent .init (held [.ok] []) = some ['W', '3', '4'] := by decide
theorem test_init_addr_fail :
    firstEvent .init (asked [.addrFail] [] []) = some ['O', '(', 'd', 'e', 'v', ',', '2', '7', ')', '!', 'a', 'd', 'd', 'r'] := by
  decide
theorem test_wrbyte : firstEvent (.wrbyte true 0xA5#8) (heldAt 0x08#8) = some ['W', 'A', 'D'] := by decide
theorem test_clear : firstEvent .clear (heldAt 0xF2#8) = some ['W', '0', '4'] := by decide
theorem test_home : firstEvent .home (heldAt 0xF2#8) = some ['W', '0', '4'] := by decide
theorem test_setdda : firstEvent (.setdda 0x40#8) (heldAt 0x00#8) = some ['W', 'C', '4'] := by decide
theorem test_cursmode : firstEvent .cursmode (heldAt 0x08#8) = some ['W', '0', 'C'] := by decide
theorem test_line : firstEvent (.line 0x40#8 (some [0x48#8])) (held [.ok] []) = some ['W', 'C', '4'] := by decide
theorem test_line_no_text : answer (.line 0x00#8 none) State.reset = some [0x01000000000000#56] := by decide
theorem test_getstat : (Response.status 0x91#8).word = 0x00000091111201#56 := by decide
theorem test_getstat_closed : answer .getstat State.reset = some [0x04000000000000#56] := by decide

/-- Where a poll is one read from its end: a busy status starts another read, a ready one ends the command (R142). -/
def pollEnd (nh nl : Nibble) : State :=
  { heldAt 0xF2#8 with
      seq := .running { todo := [.readEnd .poll], resp := Response.plain, rd := .ok, nh := nh, nl := nl } }
theorem test_poll_busy : (nextOf (step (pollEnd 0x8#4 0x0#4))).map (fun t => spellTrace t.trace) = some ['W', 'F', '6'] := by
  decide
theorem test_poll_ready : (nextOf (step (pollEnd 0x7#4 0xF#4))).map (fun t => (t.seq, t.trace)) = some (.idle, []) := by decide

/-- Split (95_test_vectors.md T15): the four latch bytes of `writeByte(1, 0xA5)` with the backlight on. -/
theorem test_split : latchBytes Layout.default true true 0xA5#8 = [0xAD#8, 0xA9#8, 0x5D#8, 0x59#8] := by decide
/-- Join (T15). -/
theorem test_join : joinNibbles (dField Layout.default 0x4A#8) (dField Layout.default 0x5B#8) = 0x45#8 := by decide
/-- `LINE 0x00, "A\0B"`: the 0x00 ends the text (43_display_sequences.md R163). -/
theorem test_line_chars : lineChars [0x41#8, 0x00#8, 0x42#8] = 0x41#8 :: List.replicate 16 0x20#8 := by decide
/-- The spelling of a command (30_encoding.md R88). -/
theorem test_spelling : spellInstr (.wrbyte true 0x48#8) =
    ['W', 'R', 'B', 'Y', 'T', 'E', ' ', '1', ',', ' ', '0', 'x', '4', '8'] := by decide
/-- `SHUTDOWN` (30_encoding.md R89). -/
theorem test_shutdown : Pseudo.shutdown.expand = [.setexcl false, .closeBus] := rfl

/-! ### Witnesses: a state and operands that meet the hypotheses of each statement

Named witness_<statement>. Where a statement has several clauses over one input there is one conjunct for each, at a
boundary value where the input has a range. -/

/-- The host's next commands are `ps`. -/
def hostHas (ps : List PortCmd) : State := { State.reset with host := ps }

/-- A command in progress with these micro-operations left. -/
def midway (k : List Op) (s : State) : State := s.accept k

theorem witness_DecodeOfEncodeIsTheCommand :
    (Instr.setdev (some [0x41#8])).wellFormed Config.default = true ∧ (Instr.setdev none).wellFormed Config.default = true ∧
    (Instr.setdev (some (long 255))).wellFormed Config.default = true ∧
    (Instr.wrbyte true 0xFF#8).wellFormed Config.default = true := by
  refine ⟨by decide, by decide, ?_, by decide⟩
  simp [Instr.wellFormed, Payload.fits, Payload.nameLegal, long_length, Config.default]

theorem witness_DecodableWordIsTheEncodingOfItsCommand :
    decode Config.default { cw := 0x1101FF#24, payload := none } = .ok (.wrbyte true 0xFF#8) := by decide

theorem witness_OneTableRowPerWord :
    ∃ r ∈ opcodeTable, r.hits 0x080100#24 = true ∧ r.hits 0x080200#24 = false := by decide

theorem witness_StepRunsTheDecodedCommand :
    (hostHas [{ cw := 0x010000#24, payload := none }]).resetReq = false ∧
    (hostHas [{ cw := 0x010000#24, payload := none }]).seq = .idle ∧
    decode (hostHas []).cfg { cw := 0x010000#24, payload := none } = .ok .openBus := by decide

theorem witness_IllegalCommandIsAnsweredWithoutEffect :
    decode (hostHas []).cfg { cw := 0x180000#24, payload := none } = .illegal .reservedOpcode ∧
    (hostHas [{ cw := 0x180000#24, payload := none }]).seq = .idle := by decide

/-- One step that goes on and one that ends the command. -/
theorem witness_RunningBlockTakesNoCommand :
    (step (midway [.closeConn] (held [] [])) = .next ((held [] []).busClose.park [] (Work.fresh [] Response.plain)) ∧
      (midway [.closeConn] (held [] [])).resetReq = false) ∧
    step (midway [] State.reset) = .next (State.reset.answered Response.plain) := ⟨⟨rfl, rfl⟩, rfl⟩

theorem witness_ResetEventGivesTheResetState : { State.reset with resetReq := true }.resetReq = true := rfl

theorem witness_InvariantHoldsAtReset : Config.default.legal = true ∧ { Config.default with devNameMax := 10, ecodeW := 8 }.legal = true := by
  decide

theorem witness_EveryStepKeepsTheInvariant : Inv State.reset ∧ step State.reset = .next State.reset ∧ Inv (held [.ok] []) :=
  ⟨by decide, rfl, by decide⟩

theorem witness_InvariantStatesHaveANextStep : Inv (midway [.sample .low, .stage (.e false), .writeReg .read] (heldAt 0x04#8)) := by
  decide

theorem witness_StepIssuesAtMostOneBusEvent : step (midway [.closeConn] (held [] [])) =
    .next ((held [] []).busClose.park [] (Work.fresh [] Response.plain)) := rfl

theorem witness_TransfersReachTheLiveTarget :
    (nextOf (step (midway [.writeReg .result] (heldAt 0x48#8)))).map (·.trace) =
      some ([] ++ [BusEvent.wrote Config.devReset 0x27#8 0x48#8 .ok]) ∧
    (nextOf (step (midway [.sample .high, .stage (.e false), .writeReg .read] (held [] [.byte 0xFF#8])))).map (·.trace) =
      some ([] ++ [BusEvent.sampled Config.devReset 0x27#8 (.byte 0xFF#8)]) := by decide

theorem witness_BusOpenBindsTheConfiguredTarget :
    (nextOf (step (midway [.openConn] (asked [.ok] [] [])))).map (·.trace) =
      some ([] ++ [BusEvent.opened Config.devReset 0x27#8 .ok]) ∧
    (nextOf (step (midway [.openConn] (asked [.addrFail] [] [])))).map (·.trace) =
      some ([] ++ [BusEvent.opened Config.devReset 0x27#8 .addrFail]) ∧
    (nextOf (step (midway [.openConn] (asked [.ioFail 0xFFFF#16] [] [])))).map (·.trace) =
      some ([] ++ [BusEvent.opened Config.devReset 0x27#8 (.ioFail 0xFFFF#16)]) := by decide

theorem witness_BusCloseNeedsSharedMode :
    (nextOf (step (midway [.closeConn] (held [] [])))).map (·.trace) = some ([] ++ [BusEvent.closed]) := by decide

theorem witness_OpenFlagFollowsTheBusEvents :
    (nextOf (step (midway [.openConn] (asked [.ok] [] [])))).map (fun t => (t.isOpen, t.ldev, t.laddr)) =
      some (true, Config.devReset, 0x27#8) ∧ State.reset.isOpen = false ∧ State.reset.ldev ≠ Config.devReset ∧
    (nextOf (step (midway [.closeConn] (held [] [])))).map (·.isOpen) = some false ∧ (held [] []).isOpen = true := by decide

theorem witness_SettingsAreWrittenOnlyByTheirSetters :
    (nextOf (step (hostHas [{ cw := 0x0A0100#24, payload := none }]))).map (·.excl) = some true ∧
    (nextOf (step (hostHas [{ cw := 0x0CFF00#24, payload := none }]))).map (·.addr) = some 0xFF#8 ∧
    (nextOf (step (hostHas [{ cw := 0x0E0000#24, payload := none }]))).map (·.dev) = some none := by decide

/-- Held, closed with no name, and closed with a name: in each the step changes the strobe. -/
theorem witness_StrobeChangesAreWrittenAtOnce :
    (Inv (midway [.stage (.e true), .writeReg .read, .stage (.e false), .writeReg .read] (heldAt 0xF2#8)) ∧
      (nextOf (step (midway [.stage (.e true), .writeReg .read, .stage (.e false), .writeReg .read] (heldAt 0xF2#8)))).map (·.img.e) =
        some true) ∧
    (Inv (midway [.stage (.e false), .writeReg .result] { heldAt 0x04#8 with isOpen := false, dev := none }) ∧
      (nextOf (step (midway [.stage (.e false), .writeReg .result] { heldAt 0x04#8 with isOpen := false, dev := none }))).map
        (·.img.e) = some false) ∧
    (Inv (midway (latchOps .result) (asked [.ok] [.ok] [])) ∧
      (nextOf (step (midway (latchOps .result) (asked [.ok] [.ok] [])))).map (·.img.e) = some true) := by decide

/-- A run that ends: `GETBL` after reset. -/
theorem getbl_run : exec .getbl State.reset = .next (State.reset.acceptWith (Response.value 0x00#8)) ∧
    drive 1 (State.reset.acceptWith (Response.value 0x00#8)) = .next (State.reset.answered (Response.value 0x00#8)) ∧
    (State.reset.answered (Response.value 0x00#8)).seq = .idle := ⟨rfl, rfl, rfl⟩

theorem witness_ResponsesFollowTheResultTable : ∃ i s t n v, s.resetReq = false ∧ exec i s = .next t ∧
    drive n t = .next v ∧ v.seq = .idle := ⟨.getbl, State.reset, _, 1, _, rfl, getbl_run.1, getbl_run.2.1, getbl_run.2.2⟩

theorem witness_SequencerReturnsOnlyAsTheProcedure : ∃ i s t n v, s.resetReq = false ∧ exec i s = .next t ∧
    drive n t = .next v ∧ v.seq = .idle := witness_ResponsesFollowTheResultTable

theorem witness_OpenAcquiresTheConnection : State.reset.resetReq = false ∧ (held [] []).resetReq = false := ⟨rfl, rfl⟩
theorem witness_CloseReleasesUnlessExclusive : State.reset.resetReq = false ∧ (held [] []).resetReq = false := ⟨rfl, rfl⟩
theorem witness_WriteRegisterSendsTheImage : State.reset.resetReq = false ∧ (held [] []).resetReq = false := ⟨rfl, rfl⟩
theorem witness_LatchWritesTheStrobeHighThenLow : State.reset.resetReq = false ∧ (held [] []).isOpen = true := ⟨rfl, rfl⟩
theorem witness_StatusReadNeedsAConnection : State.reset.resetReq = false ∧ State.reset.isOpen = false := ⟨rfl, rfl⟩

/-- Four writes and two samples, one of each failing. -/
def statusState : State := held [.ok, .ioFail 1#16, .ok, .ok] [.byte 0xFF#8, .ioFail 2#16]
theorem witness_StatusReadSamplesBothNibbles : statusState.resetReq = false ∧ statusState.isOpen = true ∧
    statusState.cfg.prewrite = false ∧ statusState.env.writes = .ok :: .ioFail 1#16 :: .ok :: .ok :: [] ∧
    statusState.env.reads = .byte 0xFF#8 :: .ioFail 2#16 :: [] := by decide

theorem witness_SetBacklightStoresAndSends : State.reset.resetReq = false ∧ (held [] []).isOpen = true := ⟨rfl, rfl⟩
theorem witness_GetBacklightAnswersTheBit : State.reset.resetReq = false := rfl
theorem witness_GetExclusiveAnswersTheFlag : State.reset.resetReq = false := rfl
theorem witness_GetAddressAnswersTheConfiguredAddress : State.reset.resetReq = false ∧ (held [] []).isOpen = true ∧
    (0x50#8 : Byte) ≠ (held [] []).laddr := by decide
theorem witness_GetDeviceAnswersTheConfiguredName : State.reset.resetReq = false := rfl
theorem witness_SetExclusiveChangesTheFlagOnly : State.reset.resetReq = false := rfl
theorem witness_SetAddressStoresAnyByte : State.reset.resetReq = false := rfl
theorem witness_SetDeviceStoresTheName : State.reset.resetReq = false := rfl

theorem witness_SettersAndGettersRoundTrip :
    (∃ t v, exec (.setaddr 0xFF#8) State.reset = .next t ∧ drive 1 t = .next v) ∧
    (∃ t v, exec (.setexcl true) State.reset = .next t ∧ drive 1 t = .next v) ∧
    (∃ t v, exec (.setdev none) State.reset = .next t ∧ drive 1 t = .next v) ∧
    (∃ t v, exec (.setbl true) (held [.ok] []) = .next t ∧ drive 4 t = .next v) :=
  ⟨⟨_, _, rfl, rfl⟩, ⟨_, _, rfl, rfl⟩, ⟨_, _, rfl, rfl⟩, ⟨_, _, rfl, rfl⟩⟩

/-- One busy poll (0x80) and a ready one (0x7F). -/
def pollState : State :=
  held (List.replicate 12 .ok) (pairAnswers [(0x80#8, 0x00#8), (0x70#8, 0xF0#8)])
theorem witness_WriteByteLatchesTwiceAndPolls : pollState.resetReq = false ∧ pollState.isOpen = true ∧
    pollState.cfg.prewrite = false ∧ (∀ p ∈ [((0x80#8 : Byte), (0x00#8 : Byte))], pairBusy pollState.cfg.layout p = true) ∧
    pairBusy pollState.cfg.layout (0x70#8, 0xF0#8) = false ∧
    pollState.env.writes = .ok :: .ok :: .ok :: .ok :: (List.replicate (4 * 2) .ok ++ []) ∧
    pollState.env.reads = pairAnswers ([(0x80#8, 0x00#8)] ++ [(0x70#8, 0xF0#8)]) ++ [] :=
  ⟨rfl, rfl, rfl, fun p h => by rw [List.mem_singleton.mp h]; rfl, rfl, rfl, rfl⟩

/-- Status reads: busy, ready, the second sample failing, the last write failing. -/
def busyRead : ReadPlay := ⟨.ok, .byte 0x80#8, .ok, .ok, .byte 0x00#8, .ok⟩
def readyRead : ReadPlay := ⟨.ok, .byte 0x00#8, .ok, .ok, .byte 0x00#8, .ok⟩
def badSample : ReadPlay := ⟨.ok, .byte 0x80#8, .ok, .ok, .ioFail 5#16, .ok⟩
def badWrite : ReadPlay := ⟨.ok, .byte 0x80#8, .ok, .ok, .byte 0x00#8, .ioFail 6#16⟩

/-- A byte that completes, and one whose second latch write fails and whose poll, busy once, ends in `r`. -/
def goodByte : BytePlay := ⟨.ok, .ok, .ok, .ok, [], readyRead⟩
def badByte (r : ReadPlay) : BytePlay := ⟨.ok, .ioFail 7#16, .ok, .ok, [busyRead], r⟩

theorem witness_FailedStatusReadEndsThePoll :
    ((held (badByte badSample).writes (badByte badSample).reads).resetReq = false ∧
      (held (badByte badSample).writes (badByte badSample).reads).isOpen = true ∧
      (held (badByte badSample).writes (badByte badSample).reads).cfg.prewrite = false ∧
      (badByte badSample).polls.all (ReadPlay.busy Layout.default) = true ∧
      (badByte badSample).last.result = .err (.ioFailure 5#16)) ∧
    (badByte badWrite).last.result = .err (.ioFailure 6#16) := ⟨⟨rfl, rfl, rfl, rfl, rfl⟩, rfl⟩

/-- Ready at the first poll. -/
def readyState : State := held (List.replicate 8 .ok) (pairAnswers [(0x0F#8, 0x1F#8)])
theorem witness_ByteCommandsComplete :
    (Instr.setdda 0xFF#8 = .setdda 0xFF#8 ∧ (0xFF#8 : Byte) = (0x80#8 ||| 0xFF#8)) ∧ readyState.resetReq = false ∧
    readyState.isOpen = true ∧ readyState.cfg.prewrite = false ∧ pairBusy readyState.cfg.layout (0x0F#8, 0x1F#8) = false ∧
    readyState.env.writes = List.replicate 8 .ok ++ [] ∧ readyState.env.reads = pairAnswers [(0x0F#8, 0x1F#8)] ++ [] := by
  decide

/-- A command that does not poll, and one that polls once. -/
theorem witness_SequencerRunsTheProcedure :
    (State.reset.resetReq = false ∧ procCommand 0 .getbl State.reset = some (Response.value 0x00#8, State.reset)) ∧
    readyState.resetReq = false ∧ (procCommand 1 (.wrbyte false 0x01#8) readyState).map (·.1) = some Response.plain := by decide

/-- Closed in shared mode, four opens and four writes answered. -/
def outsideState : State := asked (List.replicate 4 .ok) (List.replicate 4 .ok) []
theorem witness_ByteCommandOutsideAConnection : outsideState.resetReq = false ∧ outsideState.isOpen = false ∧
    outsideState.excl = false ∧ outsideState.dev = some Config.devReset ∧ outsideState.cfg.prewrite = false ∧
    outsideState.env.opens = List.replicate 4 .ok ++ [] ∧ outsideState.env.writes = List.replicate 4 .ok ++ [] := by decide

theorem endsAll {ps : List BytePlay} (h : ps.all (BytePlay.ends Layout.default) = true) :
    ∀ p ∈ ps, p.ends Layout.default = true := List.all_eq_true.mp h

theorem noPolls {ps : List BytePlay} (h : ps.all (fun p => p.polls.isEmpty) = true) : ∀ p ∈ ps, p.polls = [] :=
  fun p hp => List.isEmpty_iff.mp (List.all_eq_true.mp h p hp)

/-- `INIT` from Closed with every step ready at once; and in a connection the host holds, with a failing first step. -/
def initWrites (p : BytePlay) : List WriteAnswer :=
  p.writes ++ [.ok, .ok] ++ goodByte.writes ++ goodByte.writes ++ goodByte.writes ++ goodByte.writes ++ []
def initReads (p : BytePlay) : List ReadAnswer :=
  p.reads ++ goodByte.reads ++ goodByte.reads ++ goodByte.reads ++ goodByte.reads ++ []
theorem witness_InitRunsItsSixSteps :
    ((asked [.ok] (initWrites goodByte) (initReads goodByte)).resetReq = false ∧
      (asked [.ok] (initWrites goodByte) (initReads goodByte)).cfg.prewrite = false ∧
      openSucceeds (asked [.ok] (initWrites goodByte) (initReads goodByte)) Config.devReset 0x27#8 []
        [.opened Config.devReset 0x27#8 .ok] ∧
      (∀ p ∈ [goodByte, goodByte, goodByte, goodByte, goodByte], p.ends Layout.default = true) ∧
      ∀ p ∈ [goodByte, goodByte, goodByte, goodByte, goodByte], p.polls = []) ∧
    openSucceeds (held (initWrites (badByte badWrite)) (initReads (badByte badWrite))) Config.devReset 0x27#8 [] [] ∧
    ∀ p ∈ [badByte badWrite, goodByte, goodByte, goodByte, goodByte], p.ends Layout.default = true :=
  ⟨⟨rfl, rfl, .inr ⟨rfl, rfl, rfl, rfl, rfl⟩, endsAll rfl,
      noPolls rfl⟩,
    .inl ⟨rfl, rfl, rfl, rfl, rfl⟩, endsAll rfl⟩

/-- `LINE` from Closed with every byte ready at once; and in a connection the host holds, with two failing bytes. -/
def lineWrites (q : BytePlay) (qs : List BytePlay) : List WriteAnswer := q.writes ++ qs.flatMap BytePlay.writes ++ []
def lineReads (q : BytePlay) (qs : List BytePlay) : List ReadAnswer := q.reads ++ qs.flatMap BytePlay.reads ++ []
def badQs : List BytePlay := badByte badSample :: List.replicate 16 goodByte
theorem witness_LineWritesSeventeenBytes :
    ((asked [.ok] (lineWrites goodByte (List.replicate 17 goodByte)) (lineReads goodByte (List.replicate 17 goodByte))).resetReq
        = false ∧
      openSucceeds (asked [.ok] (lineWrites goodByte (List.replicate 17 goodByte)) (lineReads goodByte (List.replicate 17 goodByte)))
        Config.devReset 0x27#8 [] [.opened Config.devReset 0x27#8 .ok] ∧
      (List.replicate 17 goodByte).length = 17 ∧
      (∀ p ∈ goodByte :: List.replicate 17 goodByte, p.ends Layout.default = true) ∧
      ∀ p ∈ goodByte :: List.replicate 17 goodByte, p.polls = []) ∧
    openSucceeds (held (lineWrites (badByte badWrite) badQs) (lineReads (badByte badWrite) badQs)) Config.devReset 0x27#8 [] [] ∧
    (held [] []).cfg.prewrite = false ∧ badQs.length = 17 ∧ ∀ p ∈ badByte badWrite :: badQs, p.ends Layout.default = true :=
  ⟨⟨rfl, .inr ⟨rfl, rfl, rfl, rfl, rfl⟩, rfl, endsAll rfl,
      noPolls rfl⟩,
    .inl ⟨rfl, rfl, rfl, rfl, rfl⟩, rfl, rfl, endsAll rfl⟩

theorem witness_LineWithoutTextIsInvalid : State.reset.resetReq = false := rfl

theorem witness_SequencesReturnAtOnceWhenOpenFails :
    ({ State.reset with dev := none }.isOpen = false ∧ { State.reset with dev := none }.dev = none) ∧
    (asked [.addrFail] [] []).dev = some Config.devReset ∧ (asked [.addrFail] [] []).isOpen = false ∧
    (asked [.addrFail] [] []).env.takeOpen (asked [.addrFail] [] []).cfg = (.addrFail, { opens := [], writes := [], reads := [], drawn := 0 }) := by decide

/-- Position 16 inside the text, at its end, at a 0x00 byte; a text of 17 bytes. -/
theorem witness_LineCharactersPadWithSpaces :
    (16 < (long 17).length ∧ ∀ j, j ≤ 16 → (long 17).getD j 0#8 ≠ 0#8) ∧ (long 16).length ≤ 16 ∧
    (∃ j, j ≤ 16 ∧ (long 16 ++ [0x00#8])[j]? = some 0#8) ∧ 17 ≤ (long 17).length := by
  refine ⟨⟨by decide, ?_⟩, by decide, ⟨16, by decide, by decide⟩, by decide⟩
  intro j hj
  have : ∀ j : Fin 17, (long 17).getD j.val 0#8 ≠ 0#8 := by decide
  exact this ⟨j, by omega⟩

theorem witness_AccumulatedResultIsTheLastFailure : ∀ r ∈ [Result.ok, Result.ok], r = .ok := by decide

theorem witness_ImageFieldsFillTheByte : Layout.default.valid = true ∧
    ({ rs := 4, rw := 5, e := 6, bl := 7, d := 0 } : Layout).valid = true := by decide

theorem witness_ResponseWordCarriesTheFields : (Response.failed .notConnected).result = .err .notConnected ∧
    (Response.value 0xFF#8).result = .ok := ⟨rfl, rfl⟩

theorem witness_CommandsLeaveTheOtherRegisters : ∃ t v, State.reset.resetReq = false ∧
    exec .getbl State.reset = .next t ∧ drive 1 t = .next v := ⟨_, _, rfl, getbl_run.1, getbl_run.2.1⟩

/-- A latch in a held connection, and a `CLOSE` in exclusive mode. -/
theorem witness_HeldConnectionStaysHeld :
    (∃ t v, (held [.ok, .ok] []).isOpen = true ∧ exec .latch (held [.ok, .ok] []) = .next t ∧ drive 3 t = .next v) ∧
    (∃ t v, { held [] [] with excl := true }.excl = true ∧ exec .closeBus { held [] [] with excl := true } = .next t ∧
      drive 1 t = .next v) := ⟨⟨_, _, rfl, rfl, rfl⟩, ⟨_, _, rfl, rfl, rfl⟩⟩

/-- A latch in a held connection, and `WRREG` through a transient one. -/
theorem witness_ImageMirrorsTheLastWrite :
    (∃ t v, (held [.ok, .ok] []).isOpen = true ∧ (held [.ok, .ok] []).resetReq = false ∧
      exec .latch (held [.ok, .ok] []) = .next t ∧ drive 3 t = .next v ∧ v.seq = .idle) ∧
    ∃ t v, (asked [.ok] [.ok] []).dev ≠ none ∧ (asked [.ok] [.ok] []).resetReq = false ∧
      exec .wrreg (asked [.ok] [.ok] []) = .next t ∧ drive 4 t = .next v ∧ v.seq = .idle ∧
      v.trace = [] ++ [.opened Config.devReset 0x27#8 .ok, .wrote Config.devReset 0x27#8 0x00#8 .ok, .closed] :=
  ⟨⟨_, _, rfl, rfl, rfl, rfl, rfl⟩, ⟨_, _, by decide, rfl, rfl, rfl, rfl, rfl⟩⟩

/-- `ECODE_W` = 8 (00_scope.md R5): a free code is cut to its lowest eight bits; sixteen bits leave it as it is. -/
theorem test_code_width : codeOfWidth { Config.default with ecodeW := 8 } 0x1234#16 = 0x0034#16 ∧
    codeOfWidth Config.default 0x1234#16 = 0x1234#16 := by decide

end Sys2Proof.Machine.Test
end

section
/-! The status byte and the cursor it gives (30_encoding.md R79, R80). -/

namespace Sys2Proof.Machine

/-! ### The cursor -/

theorem rowOf_toNat (ac : BitVec 7) : (rowOf ac).toNat = if 0x40 ≤ ac.toNat then 2 else 1 := by
  unfold rowOf Config.row2Base
  split <;> rfl

/-- The column of R80 fits the byte, so "computed without wrap" holds of the model's byte. -/
theorem colOf_toNat (ac : BitVec 7) : (colOf ac).toNat = ac.toNat % 0x40 + 1 := by
  have hfits : ac.toNat % 0x40 + 1 < 2 ^ 8 := by omega
  exact (BitVec.toNat_ofNat ..).trans (Nat.mod_eq_of_lt hfits)

/-- Settles O50: the column is the counter's remainder plus 1, and the remainder is at most 63. -/
theorem cursorFollowsTheAddressCounter : Obligations.CursorFollowsTheAddressCounter := by
  intro ac
  rw [colOf_toNat]
  exact ⟨rowOf_toNat ac, rfl, by omega, by omega⟩

/-! ### The status byte -/

theorem acOf_getLsbD (sr : Byte) {i : Nat} (hi : i < 7) : (acOf sr).getLsbD i = sr.getLsbD i := by
  simp [acOf, hi]

/-- R79's two fields are the whole of the byte; the sum of O51 is this equation read as numbers. -/
theorem cons_busyOf_acOf (sr : Byte) : BitVec.cons (busyOf sr) (acOf sr) = sr := by
  have hbusy : busyOf sr = sr.msb := (BitVec.msb_eq_getLsbD_last sr).symm
  have hac : acOf sr = sr.setWidth 7 := (BitVec.setWidth_eq_extractLsb' (by decide)).symm
  rw [hbusy, hac, BitVec.cons_msb_setWidth]

theorem toNat_eq_busyOf_add_acOf (sr : Byte) :
    sr.toNat = (if busyOf sr then 128 else 0) + (acOf sr).toNat := by
  have hac : (acOf sr).toNat < 2 ^ 7 := (acOf sr).isLt
  calc sr.toNat
      = (BitVec.cons (busyOf sr) (acOf sr)).toNat := by rw [cons_busyOf_acOf]
    _ = (busyOf sr).toNat <<< 7 ||| (acOf sr).toNat := BitVec.toNat_cons ..
    _ = (busyOf sr).toNat <<< 7 + (acOf sr).toNat := (Nat.shiftLeft_add_eq_or_of_lt hac _).symm
    _ = (if busyOf sr then 128 else 0) + (acOf sr).toNat := by cases busyOf sr <;> rfl

/-- Settles O51: the byte is its busy flag put in front of its address counter. -/
theorem statusByteIsBusyAndAddressCounter : Obligations.StatusByteIsBusyAndAddressCounter :=
  fun sr => ⟨rfl, fun _ hi => acOf_getLsbD sr hi, toNat_eq_busyOf_add_acOf sr⟩

end Sys2Proof.Machine
end

section
/-! The commands that read the configuration, and SETADDR beside the binding (41_config_access.md R123 to R125, R127). -/

namespace Sys2Proof.Machine

/-! ### What the commands accept -/

theorem exec_getexcl (s : State) : exec .getexcl s = .next (s.acceptWith (Response.value (bitByte s.excl))) := rfl

theorem exec_setaddr (a : Byte) (s : State) :
    exec (.setaddr a) s = .next ({ s with addr := a }.acceptWith Response.plain) := rfl

theorem exec_getaddr (s : State) : exec .getaddr s = .next (s.acceptWith (Response.value s.addr)) := rfl

theorem exec_getdev (s : State) : exec .getdev s = .next (s.acceptWith { Response.plain with out := s.dev }) := rfl

/-- A command without bus events runs in two steps: acceptance, which fixes the response `r` and leaves `u`, then delivery. -/
theorem answered_of_exec_acceptWith {i : Instr} {s u : State} {r : Response} (hreset : u.resetReq = false)
    (hexec : exec i s = .next (u.acceptWith r)) : ∃ t, exec i s = .next t ∧ drive 1 t = .next (u.answered r) :=
  ⟨u.acceptWith r, hexec, drive_acceptWith hreset r 0⟩

/-! ### The flag -/

theorem bitByte_eq_ite (b : Bool) : bitByte b = if b then 1#8 else 0#8 := by
  cases b <;> rfl

/-- Settles O33: the response fixed at acceptance carries the flag's byte, and delivery is all that follows. -/
theorem getExclusiveAnswersTheFlag : Obligations.GetExclusiveAnswersTheFlag := by
  refine ⟨rfl, rfl, fun s hreset => ?_⟩
  rw [← bitByte_eq_ite]
  exact answered_of_exec_acceptWith hreset (exec_getexcl s)

/-! ### The address -/

/-- `SETADDR` in a held connection leaves the binding at the old address (R124). -/
theorem laddr_ne_addr_after_setaddr_held {s : State} {a : Byte} (hreset : s.resetReq = false)
    (hopen : s.isOpen = true) (hother : a ≠ s.laddr) :
    ∃ t v, exec (.setaddr a) s = .next t ∧ drive 1 t = .next v ∧ v.isOpen = true ∧ v.addr = a ∧ v.laddr ≠ v.addr := by
  obtain ⟨t, hexec, hdrive⟩ := answered_of_exec_acceptWith (u := { s with addr := a }) hreset (exec_setaddr a s)
  refine ⟨t, _, hexec, hdrive, ?_, ?_, ?_⟩
  · simp [hopen]
  · simp
  · simpa using hother.symm

/-- Settles O34: `GETADDR` reads `ADDR`, which a `SETADDR` in a held connection parts from `LADDR`. -/
theorem getAddressAnswersTheConfiguredAddress : Obligations.GetAddressAnswersTheConfiguredAddress :=
  ⟨rfl, rfl, fun _ _ hreset hopen hother => laddr_ne_addr_after_setaddr_held hreset hopen hother,
    fun s hreset => answered_of_exec_acceptWith hreset (exec_getaddr s)⟩

/-! ### The device name -/

/-- Settles O35: the response fixed at acceptance carries `DEV` as its output payload. -/
theorem getDeviceAnswersTheConfiguredName : Obligations.GetDeviceAnswersTheConfiguredName :=
  ⟨rfl, rfl, fun s hreset => answered_of_exec_acceptWith hreset (exec_getdev s)⟩

end Sys2Proof.Machine
end

section
/-! The characters of LINE: the text up to its end or its first 0x00, then spaces (43_display_sequences.md R163). -/

namespace Sys2Proof.Machine

/-! ### The flag ENDED -/

/-- Past its end a text reads as 0x00. -/
theorem getD_eq_zero_of_length_le {t : List Byte} {i : Nat} (hpast : t.length ≤ i) : t.getD i 0#8 = 0#8 := by
  rw [List.getD_eq_getElem?_getD, List.getElem?_eq_none hpast, Option.getD_none]

/-- Reaching the end of the text and reaching a 0x00 byte are one condition on what is read. -/
theorem endedAt_iff (e : Bool) (t : List Byte) (i : Nat) :
    endedAt e t i = true ↔ e = true ∨ t.getD i 0#8 = 0#8 := by
  simp only [endedAt, Bool.or_eq_true, decide_eq_true_eq, beq_iff_eq]
  rw [or_assoc, or_iff_right_of_imp getD_eq_zero_of_length_le]

/-! ### The characters of any stretch of positions -/

@[simp] theorem length_charsFrom (t : List Byte) (n i : Nat) (e : Bool) : (charsFrom t n i e).length = n := by
  induction n generalizing i e with
  | zero => rfl
  | succ n ih => simp [charsFrom, ih]

/-- Once `ENDED` is set it stays set, and every position is a space. -/
theorem charsFrom_ended (t : List Byte) (n i : Nat) : charsFrom t n i true = List.replicate n Config.pad := by
  induction n generalizing i with
  | zero => rfl
  | succ n ih => simp [charsFrom, endedAt, ih, List.replicate_succ]

theorem charsFrom_getElem?_before_end {t : List Byte} {n i k : Nat} (hk : k < n)
    (hne : ∀ j, j ≤ k → t.getD (i + j) 0#8 ≠ 0#8) : (charsFrom t n i false)[k]? = some (t.getD (i + k) 0#8) := by
  induction n generalizing i k with
  | zero => omega
  | succ n ih =>
    have hgoes : endedAt false t i = false := by
      simpa [Bool.eq_false_iff, endedAt_iff] using hne 0 k.zero_le
    cases k with
    | zero => simp only [charsFrom, hgoes, Bool.false_eq_true, if_false, List.getElem?_cons_zero, Nat.add_zero]
    | succ k =>
      have htail := ih (i := i + 1) (k := k) (by omega) fun j hj => by
        simpa [Nat.add_right_comm, Nat.add_assoc] using hne (j + 1) (by omega)
      simpa [charsFrom, hgoes, Nat.add_right_comm, Nat.add_assoc] using htail

theorem charsFrom_getElem?_from_end {t : List Byte} {n i j k : Nat} (e : Bool) (hk : k < n) (hj : j ≤ k)
    (hzero : t.getD (i + j) 0#8 = 0#8) : (charsFrom t n i e)[k]? = some Config.pad := by
  induction n generalizing i j k e with
  | zero => omega
  | succ n ih =>
    cases j with
    | zero =>
      have hended : endedAt e t i = true := (endedAt_iff e t i).2 (.inr hzero)
      simp [charsFrom, hended, charsFrom_ended, ← List.replicate_succ, hk]
    | succ j =>
      obtain ⟨k, rfl⟩ : ∃ m, k = m + 1 := ⟨k - 1, by omega⟩
      have hzero' : t.getD (i + 1 + j) 0#8 = 0#8 := by rwa [Nat.add_right_comm, Nat.add_assoc]
      exact ih (endedAt e t i) (by omega) (by omega) hzero'

/-- Two texts that read alike at the `n` positions from `i` on give the same characters there. -/
theorem charsFrom_congr {t u : List Byte} {n i : Nat} (e : Bool)
    (hsame : ∀ j, i ≤ j → j < i + n → t.getD j 0#8 = u.getD j 0#8) : charsFrom t n i e = charsFrom u n i e := by
  induction n generalizing i e with
  | zero => rfl
  | succ n ih =>
    have hchar : t.getD i 0#8 = u.getD i 0#8 := hsame i (Nat.le_refl i) (by omega)
    have hended : endedAt e t i = endedAt e u i := by
      rw [Bool.eq_iff_iff, endedAt_iff, endedAt_iff, hchar]
    have htail := ih (i := i + 1) (endedAt e u i) fun j hi hj => hsame j (by omega) (by omega)
    rw [charsFrom, charsFrom, hended, hchar, htail]

/-! ### The 17 characters -/

@[simp] theorem length_lineChars (t : List Byte) : (lineChars t).length = 17 := length_charsFrom t 17 0 false

theorem lineChars_getElem?_before_end {t : List Byte} {i : Nat} (hi : i < 17)
    (hne : ∀ j, j ≤ i → t.getD j 0#8 ≠ 0#8) : (lineChars t)[i]? = some (t.getD i 0#8) := by
  have hchar := charsFrom_getElem?_before_end (t := t) (i := 0) hi fun j hj => by simpa using hne j hj
  rwa [Nat.zero_add] at hchar

theorem lineChars_getElem?_from_end {t : List Byte} {i j : Nat} (hi : i < 17) (hj : j ≤ i)
    (hzero : t.getD j 0#8 = 0#8) : (lineChars t)[i]? = some 0x20#8 :=
  charsFrom_getElem?_from_end (i := 0) false hi hj (by rwa [Nat.zero_add])

theorem getD_take_append {t : List Byte} {n j : Nat} (extra : List Byte) (hn : n ≤ t.length) (hj : j < n) :
    (t.take n ++ extra).getD j 0#8 = t.getD j 0#8 := by
  have hshort : j < (t.take n).length := by rwa [List.length_take_of_le hn]
  rw [List.getD_eq_getElem?_getD, List.getElem?_append_left hshort, List.getElem?_take_of_lt hj,
    ← List.getD_eq_getElem?_getD]

theorem lineChars_take_append {t : List Byte} (extra : List Byte) (hlen : 17 ≤ t.length) :
    lineChars (t.take 17 ++ extra) = lineChars t :=
  charsFrom_congr false fun _ _ hj => getD_take_append extra hlen (by rwa [Nat.zero_add] at hj)

/-- Settles O49: past the end the text reads as 0x00, so both ways to end are a 0x00 read at or before the position. -/
theorem lineCharactersPadWithSpaces : Obligations.LineCharactersPadWithSpaces := by
  intro t
  refine ⟨length_lineChars t, fun i hi _ hne => lineChars_getElem?_before_end hi hne, fun i hi hend => ?_,
    fun hlen extra => lineChars_take_append extra hlen⟩
  obtain hpast | ⟨j, hj, hzero⟩ := hend
  · exact lineChars_getElem?_from_end hi (Nat.le_refl i) (getD_eq_zero_of_length_le hpast)
  · exact lineChars_getElem?_from_end hi hj (by rw [List.getD_eq_getElem?_getD, hzero, Option.getD_some])

end Sys2Proof.Machine
end

section
/-! The decoder, the encoder and the opcode table are one relation (30_encoding.md R70 to R73). -/

namespace Sys2Proof

/-! ### Decoding what was encoded -/

@[simp] theorem flagByte_getElem_zero (f : Bool) : (flagByte f)[0] = f := flagByte_bit f

/-- Settles O1: each field of the word reads back, so the opcode selects the command's own format and that format gives
the operands back. -/
theorem decodeOfEncodeIsTheCommand : Obligations.DecodeOfEncodeIsTheCommand := by
  intro c i hwf
  cases i with
  | setdev p =>
    simp only [Instr.wellFormed, Bool.and_eq_true] at hwf
    obtain ⟨hfits, hname⟩ := hwf
    simp [decode, decodeOp, formatP, encode, Instr.opcode, Instr.fieldA, Instr.fieldB, Instr.payload, hfits, hname]
  | line off t =>
    have hfits : t.fits = true := hwf
    simp [decode, decodeOp, formatL, encode, Instr.opcode, Instr.fieldA, Instr.fieldB, Instr.payload, hfits]
  | setbl f | setexcl f =>
    simp [decode, decodeOp, formatF, noPayload, encode, Instr.opcode, Instr.fieldA, Instr.fieldB, Instr.payload,
      Payload.fits]
  | setaddr a | setdda a =>
    simp [decode, decodeOp, formatV, noPayload, encode, Instr.opcode, Instr.fieldA, Instr.fieldB, Instr.payload,
      Payload.fits]
  | wrbyte rs v =>
    simp [decode, decodeOp, formatW, noPayload, encode, Instr.opcode, Instr.fieldA, Instr.fieldB, Instr.payload,
      Payload.fits]
  | openBus | closeBus | wrreg | latch | rdreg | getbl | getexcl | getaddr | getdev | init | clear | home | cursmode
  | getstat =>
    simp [decode, decodeOp, formatN, noPayload, encode, Instr.opcode, Instr.fieldA, Instr.fieldB, Instr.payload,
      Payload.fits]

/-! ### What each format accepts -/

theorem noPayload_ok {pl : Payload} {i j : Instr} (h : noPayload pl i = .ok j) : pl = none ∧ j = i := by
  cases pl with
  | none => cases h; exact ⟨rfl, rfl⟩
  | some bs => cases h

theorem formatN_ok {w : CmdWord} {pl : Payload} {i j : Instr} (h : formatN w pl i = .ok j) :
    j = i ∧ w.a = 0#8 ∧ w.b = 0#8 ∧ pl = none := by
  unfold formatN at h
  split at h
  · rename_i hz
    obtain ⟨hpl, hj⟩ := noPayload_ok h
    exact ⟨hj, hz.1, hz.2, hpl⟩
  · cases h

/-- A byte whose bits 7:1 are zero is a flag operand. -/
theorem eq_flagByte {a : Byte} (h : a >>> 1 = 0#8) : a = flagByte (a.getLsbD 0) := by
  revert a; decide

theorem formatF_ok {w : CmdWord} {pl : Payload} {k : Bool → Instr} {j : Instr} (h : formatF w pl k = .ok j) :
    ∃ f, j = k f ∧ w.a = flagByte f ∧ w.b = 0#8 ∧ pl = none := by
  unfold formatF at h
  split at h
  · rename_i hz
    obtain ⟨hpl, hj⟩ := noPayload_ok h
    exact ⟨_, hj, eq_flagByte hz.1, hz.2, hpl⟩
  · cases h

theorem formatV_ok {w : CmdWord} {pl : Payload} {k : Byte → Instr} {j : Instr} (h : formatV w pl k = .ok j) :
    j = k w.a ∧ w.b = 0#8 ∧ pl = none := by
  unfold formatV at h
  split at h
  · rename_i hz
    obtain ⟨hpl, hj⟩ := noPayload_ok h
    exact ⟨hj, hz, hpl⟩
  · cases h

theorem formatW_ok {w : CmdWord} {pl : Payload} {k : Bool → Byte → Instr} {j : Instr} (h : formatW w pl k = .ok j) :
    ∃ f, j = k f w.b ∧ w.a = flagByte f ∧ pl = none := by
  unfold formatW at h
  split at h
  · rename_i hz
    obtain ⟨hpl, hj⟩ := noPayload_ok h
    exact ⟨_, hj, eq_flagByte hz, hpl⟩
  · cases h

theorem formatP_ok {c : Config} {w : CmdWord} {pl : Payload} {k : Payload → Instr} {j : Instr}
    (h : formatP c w pl k = .ok j) : j = k pl ∧ w.a = 0#8 ∧ w.b = 0#8 ∧ pl.nameLegal c = true := by
  unfold formatP at h
  split at h
  · rename_i hz
    split at h
    · rename_i hname
      cases h
      exact ⟨rfl, hz.1, hz.2, hname⟩
    · cases h
  · cases h

theorem formatL_ok {w : CmdWord} {pl : Payload} {k : Byte → Payload → Instr} {j : Instr} (h : formatL w pl k = .ok j) :
    j = k w.a pl ∧ w.b = 0#8 := by
  unfold formatL at h
  split at h
  · rename_i hz
    cases h
    exact ⟨rfl, hz⟩
  · cases h

/-! ### The word of a command -/

/-- A command is presented by exactly one word and payload: the word of its fields. -/
theorem encode_eq_iff {i : Instr} {p : PortCmd} :
    encode i = p ↔ p.cw.op = i.opcode ∧ p.cw.a = i.fieldA ∧ p.cw.b = i.fieldB ∧ p.payload = i.payload := by
  constructor
  · rintro rfl
    exact Laws.WordFields.of_make i
  · rintro ⟨hop, ha, hb, hpl⟩
    rw [encode, ← hop, ← ha, ← hb, ← hpl, make_fields]

theorem op_eq_of_toNat {w : CmdWord} {v : Byte} (h : w.op.toNat = v.toNat) : w.op = v := BitVec.eq_of_toNat_eq h

/-- What the opcode map accepts is the command's encoding, and its payload is legal for the command. -/
theorem decodeOp_ok {c : Config} {w : CmdWord} {pl : Payload} {i : Instr} (hfits : pl.fits = true)
    (h : decodeOp c w pl = .ok i) : encode i = { cw := w, payload := pl } ∧ i.wellFormed c = true := by
  rw [encode_eq_iff]
  unfold decodeOp at h
  split at h <;> rename_i hop
  case h_6 | h_8 =>
    obtain ⟨f, rfl, ha, hb, rfl⟩ := formatF_ok h
    exact ⟨⟨op_eq_of_toNat hop, ha, hb, rfl⟩, rfl⟩
  case h_10 | h_18 =>
    obtain ⟨rfl, hb, rfl⟩ := formatV_ok h
    exact ⟨⟨op_eq_of_toNat hop, rfl, hb, rfl⟩, rfl⟩
  case h_12 =>
    obtain ⟨rfl, ha, hb, hname⟩ := formatP_ok h
    exact ⟨⟨op_eq_of_toNat hop, ha, hb, rfl⟩, by rw [Instr.wellFormed, hfits, hname]; rfl⟩
  case h_15 =>
    obtain ⟨f, rfl, ha, rfl⟩ := formatW_ok h
    exact ⟨⟨op_eq_of_toNat hop, ha, rfl, rfl⟩, rfl⟩
  case h_20 =>
    obtain ⟨rfl, hb⟩ := formatL_ok h
    exact ⟨⟨op_eq_of_toNat hop, rfl, hb, rfl⟩, hfits⟩
  case h_22 => cases h
  all_goals
    obtain ⟨rfl, ha, hb, rfl⟩ := formatN_ok h
    exact ⟨⟨op_eq_of_toNat hop, ha, hb, rfl⟩, rfl⟩

/-- Settles O2: each format accepts only the fields and the payload that the encoder writes. -/
theorem decodableWordIsTheEncodingOfItsCommand : Obligations.DecodableWordIsTheEncodingOfItsCommand := by
  intro c p i h
  unfold decode at h
  split at h
  · rename_i hfits
    exact decodeOp_ok hfits h
  · cases h

/-! ### The opcode table -/

/-- Masking a word masks its fields. -/
theorem make_and_make (op a b mop ma mb : Byte) :
    CmdWord.make op a b &&& CmdWord.make mop ma mb = CmdWord.make (op &&& mop) (a &&& ma) (b &&& mb) :=
  BitVec.and_append.trans (congrArg (· ++ (b &&& mb)) BitVec.and_append)

theorem make_inj {op a b op' a' b' : Byte} :
    CmdWord.make op a b = CmdWord.make op' a' b' ↔ op = op' ∧ a = a' ∧ b = b' := by
  constructor
  · intro h
    exact ⟨by simpa using congrArg CmdWord.op h, by simpa using congrArg CmdWord.a h, by simpa using congrArg CmdWord.b h⟩
  · rintro ⟨rfl, rfl, rfl⟩
    rfl

/-- The bits of `A` that the command's format requires to be zero (R72). -/
def Instr.maskA : Instr → Byte
  | .setbl _ | .setexcl _ | .wrbyte _ _ => 0xFE#8
  | .setaddr _ | .setdda _ | .line _ _ => 0x00#8
  | .openBus | .closeBus | .wrreg | .latch | .rdreg | .getbl | .getexcl | .getaddr | .setdev _ | .getdev | .init
  | .clear | .home | .cursmode | .getstat => 0xFF#8

/-- The bits of `B` that the command's format requires to be zero (R72). -/
def Instr.maskB : Instr → Byte
  | .wrbyte _ _ => 0x00#8
  | .openBus | .closeBus | .wrreg | .latch | .rdreg | .setbl _ | .getbl | .setexcl _ | .getexcl | .setaddr _
  | .getaddr | .setdev _ | .getdev | .init | .clear | .home | .setdda _ | .cursmode | .line _ _ | .getstat => 0xFF#8

/-- How the command's format takes a payload (R72). -/
def Instr.payloadForm : Instr → PayloadForm
  | .setdev _ => .name
  | .line _ _ => .text
  | .openBus | .closeBus | .wrreg | .latch | .rdreg | .setbl _ | .getbl | .setexcl _ | .getexcl | .setaddr _
  | .getaddr | .getdev | .init | .wrbyte _ _ | .clear | .home | .setdda _ | .cursmode | .getstat => .absent

/-- The row of a command as its format gives it: the opcode is fixed, and so are the reserved bits of `A` and `B`. -/
def Instr.row (i : Instr) : TableRow :=
  { mnemonic := i.mnemonic, pat := CmdWord.make i.opcode 0#8 0#8, mask := CmdWord.make 0xFF#8 i.maskA i.maskB,
    payload := i.payloadForm }

/-- One command of each opcode, in the order of the table. -/
def sampleCommands : List Instr :=
  [.openBus, .closeBus, .wrreg, .latch, .rdreg, .setbl false, .getbl, .setexcl false, .getexcl, .setaddr 0#8, .getaddr,
    .setdev none, .getdev, .init, .wrbyte false 0#8, .clear, .home, .setdda 0#8, .cursmode, .line 0#8 none, .getstat]

/-- The opcode table lists the rows that the formats give. -/
theorem opcodeTable_eq : opcodeTable = sampleCommands.map Instr.row := by decide

/-- A row does not depend on the operands. -/
theorem row_eq_sample (i : Instr) : ∃ j ∈ sampleCommands, i.row = j.row := by
  cases i with
  | setbl f => exact ⟨.setbl false, by decide, rfl⟩
  | setexcl f => exact ⟨.setexcl false, by decide, rfl⟩
  | setaddr a => exact ⟨.setaddr 0#8, by decide, rfl⟩
  | setdev p => exact ⟨.setdev none, by decide, rfl⟩
  | wrbyte rs v => exact ⟨.wrbyte false 0#8, by decide, rfl⟩
  | setdda off => exact ⟨.setdda 0#8, by decide, rfl⟩
  | line off t => exact ⟨.line 0#8 none, by decide, rfl⟩
  | _ => exact ⟨_, by decide, rfl⟩

theorem row_mem_opcodeTable (i : Instr) : i.row ∈ opcodeTable := by
  obtain ⟨j, hj, hrow⟩ := row_eq_sample i
  rw [opcodeTable_eq, hrow]
  exact List.mem_map_of_mem hj

/-- The words of a command's row: its opcode, with the reserved bits zero. -/
theorem row_hits_iff (i : Instr) (w : CmdWord) :
    i.row.hits w = true ↔ w.op = i.opcode ∧ w.a &&& i.maskA = 0#8 ∧ w.b &&& i.maskB = 0#8 := by
  have hones : w.op &&& 0xFF#8 = w.op := BitVec.and_allOnes
  have hw : w &&& i.row.mask = CmdWord.make (w.op &&& 0xFF#8) (w.a &&& i.maskA) (w.b &&& i.maskB) :=
    (congrArg (· &&& i.row.mask) (make_fields w).symm).trans (make_and_make ..)
  rw [TableRow.hits, beq_iff_eq, hw, hones]
  exact make_inj

theorem flagByte_and (f : Bool) : flagByte f &&& 0xFE#8 = 0#8 := by cases f <;> rfl

/-- The operands leave the reserved bits zero. -/
theorem fields_and_masks (i : Instr) : i.fieldA &&& i.maskA = 0#8 ∧ i.fieldB &&& i.maskB = 0#8 := by
  cases i with
  | setbl f | setexcl f => exact ⟨flagByte_and f, BitVec.zero_and⟩
  | wrbyte rs v => exact ⟨flagByte_and rs, BitVec.and_zero⟩
  | setaddr a | setdda a | line a t => exact ⟨BitVec.and_zero, BitVec.zero_and⟩
  | openBus | closeBus | wrreg | latch | rdreg | getbl | getexcl | getaddr | setdev p | getdev | init | clear | home
  | cursmode | getstat => exact ⟨BitVec.zero_and, BitVec.zero_and⟩

theorem row_hits_encode (i : Instr) : i.row.hits (encode i).cw = true := by
  obtain ⟨hop, ha, hb, -⟩ := Laws.WordFields.of_make i
  rw [row_hits_iff, hop, ha, hb]
  exact ⟨rfl, fields_and_masks i⟩

/-- Two rows of the table with one opcode are one row. -/
theorem row_eq_of_opcode_eq {i j : Instr} (hi : i ∈ sampleCommands) (hj : j ∈ sampleCommands)
    (h : i.opcode = j.opcode) : i = j := by
  have hrows : ∀ i ∈ sampleCommands, ∀ j ∈ sampleCommands, i.opcode = j.opcode → i = j := by decide
  exact hrows i hi j hj h

/-- Settles O5: a word carries one opcode, and the opcodes of the rows differ. -/
theorem oneTableRowPerWord : Obligations.OneTableRowPerWord := by
  refine ⟨fun i => ⟨i.row, row_mem_opcodeTable i, rfl, row_hits_encode i⟩, fun w r hr q hq hrw hqw => ?_⟩
  rw [opcodeTable_eq, List.mem_map] at hr hq
  obtain ⟨i, hi, rfl⟩ := hr
  obtain ⟨j, hj, rfl⟩ := hq
  have hopi := ((row_hits_iff i w).1 hrw).1
  have hopj := ((row_hits_iff j w).1 hqw).1
  rw [row_eq_of_opcode_eq hi hj (hopi.symm.trans hopj)]

/-! ### The table and the decoder -/

theorem takes_payload {c : Config} {i : Instr} (hwf : i.wellFormed c = true) : i.payloadForm.takes c i.payload = true := by
  cases i with
  | setdev p | line off t => exact hwf
  | openBus | closeBus | wrreg | latch | rdreg | setbl f | getbl | setexcl f | getexcl | setaddr a | getaddr | getdev
  | init | wrbyte rs v | clear | home | setdda off | cursmode | getstat => rfl

theorem eq_zero_of_and_ones {a : Byte} (h : a &&& 0xFF#8 = 0#8) : a = 0#8 := BitVec.and_allOnes.symm.trans h

theorem eq_flagByte_of_and {a : Byte} (h : a &&& 0xFE#8 = 0#8) : a = flagByte (a.getLsbD 0) := by
  revert a; decide

/-- What a row takes is the encoding of a command of that row. -/
theorem encoding_of_row {c : Config} (i : Instr) {w : CmdWord} {pl : Payload} (hw : i.row.hits w = true)
    (hpl : i.payloadForm.takes c pl = true) :
    ∃ j, encode j = { cw := w, payload := pl } ∧ j.wellFormed c = true := by
  obtain ⟨hop, ha, hb⟩ := (row_hits_iff i w).1 hw
  cases i with
  | setdev p => exact ⟨.setdev pl, encode_eq_iff.2 ⟨hop, eq_zero_of_and_ones ha, eq_zero_of_and_ones hb, rfl⟩, hpl⟩
  | line off t => exact ⟨.line w.a pl, encode_eq_iff.2 ⟨hop, rfl, eq_zero_of_and_ones hb, rfl⟩, hpl⟩
  | setbl f =>
    have hnone := Option.isNone_iff_eq_none.1 hpl
    exact ⟨.setbl (w.a.getLsbD 0), encode_eq_iff.2 ⟨hop, eq_flagByte_of_and ha, eq_zero_of_and_ones hb, hnone⟩, rfl⟩
  | setexcl f =>
    have hnone := Option.isNone_iff_eq_none.1 hpl
    exact ⟨.setexcl (w.a.getLsbD 0), encode_eq_iff.2 ⟨hop, eq_flagByte_of_and ha, eq_zero_of_and_ones hb, hnone⟩, rfl⟩
  | wrbyte rs v =>
    have hnone := Option.isNone_iff_eq_none.1 hpl
    exact ⟨.wrbyte (w.a.getLsbD 0) w.b, encode_eq_iff.2 ⟨hop, eq_flagByte_of_and ha, rfl, hnone⟩, rfl⟩
  | setaddr a =>
    have hnone := Option.isNone_iff_eq_none.1 hpl
    exact ⟨.setaddr w.a, encode_eq_iff.2 ⟨hop, rfl, eq_zero_of_and_ones hb, hnone⟩, rfl⟩
  | setdda off =>
    have hnone := Option.isNone_iff_eq_none.1 hpl
    exact ⟨.setdda w.a, encode_eq_iff.2 ⟨hop, rfl, eq_zero_of_and_ones hb, hnone⟩, rfl⟩
  | openBus | closeBus | wrreg | latch | rdreg | getbl | getexcl | getaddr | getdev | init | clear | home | cursmode
  | getstat =>
    have hnone := Option.isNone_iff_eq_none.1 hpl
    exact ⟨_, encode_eq_iff.2 ⟨hop, eq_zero_of_and_ones ha, eq_zero_of_and_ones hb, hnone⟩, rfl⟩

/-- Settles O4: what decodes is an encoding (O2), and an encoding is what its command's row takes; what a row takes is an
encoding, and an encoding decodes (O1). -/
theorem decoderAcceptsExactlyTheOpcodeTable : Obligations.DecoderAcceptsExactlyTheOpcodeTable := by
  rintro c ⟨w, pl⟩
  constructor
  · rintro ⟨i, hi⟩
    obtain ⟨henc, hwf⟩ := decodableWordIsTheEncodingOfItsCommand c _ i hi
    rw [← henc]
    exact ⟨i.row, row_mem_opcodeTable i, row_hits_encode i, takes_payload hwf⟩
  · rintro ⟨r, hr, hw, hpl⟩
    rw [opcodeTable_eq, List.mem_map] at hr
    obtain ⟨i, -, rfl⟩ := hr
    obtain ⟨j, henc, hwf⟩ := encoding_of_row i hw hpl
    exact ⟨j, henc ▸ decodeOfEncodeIsTheCommand c j hwf⟩

/-- Settles O3: the decoder evaluated on the six words. -/
theorem vectorWordsDecodeAsListed : Obligations.VectorWordsDecodeAsListed := by
  unfold Obligations.VectorWordsDecodeAsListed
  decide

end Sys2Proof
end

section
/-! The data on the port and on the bus: nibbles, the set-address byte, results, the image and its byte, the response word
(00_scope.md R11, 30_encoding.md R74 to R85). -/

namespace Sys2Proof.Machine

/-! ### Bytes and nibbles -/

/-- Settles O52: the opcode bit covers bit 7 of the offset. -/
theorem setAddressByteAbsorbsBitSeven : Obligations.SetAddressByteAbsorbsBitSeven := by
  unfold Obligations.SetAddressByteAbsorbsBitSeven
  decide

theorem joinNibbles_split (v : Byte) : joinNibbles (highNibble v) (lowNibble v) = v := by
  revert v; decide

theorem split_joinNibbles (h n : Nibble) : highNibble (joinNibbles h n) = h ∧ lowNibble (joinNibbles h n) = n := by
  revert h n; decide

/-- Settles O54: the two nibbles are the two halves of the byte, and the default layout samples the upper one. -/
theorem nibblesSplitAndJoin : Obligations.NibblesSplitAndJoin :=
  ⟨joinNibbles_split, split_joinNibbles, fun _ => rfl⟩

/-! ### The last failure -/

theorem acc_eq_ite (r s : Result) : acc r s = if s = .ok then r else s := by
  cases s <;> rfl

/-- Results accumulate to `OK` only from nothing but `OK`. -/
theorem foldl_acc_eq_ok_iff (r : Result) (rs : List Result) : rs.foldl acc r = .ok ↔ r = .ok ∧ ∀ q ∈ rs, q = .ok := by
  induction rs generalizing r with
  | nil => simp
  | cons q rs ih =>
    have hacc : acc r q = .ok ↔ r = .ok ∧ q = .ok := by cases q <;> simp
    rw [List.foldl_cons, ih, hacc, List.forall_mem_cons, and_assoc]

/-- Steps that do not fail leave the accumulated result as it is. -/
theorem foldl_acc_of_all_ok (r : Result) {rs : List Result} (h : ∀ q ∈ rs, q = .ok) : rs.foldl acc r = r := by
  induction rs with
  | nil => rfl
  | cons q rs ih =>
    rw [List.forall_mem_cons] at h
    rw [List.foldl_cons, h.1, acc_ok, ih h.2]

theorem lastFailure_of_last {before after : List Result} {f : Failure} (h : ∀ r ∈ after, r = .ok) :
    lastFailure (before ++ .err f :: after) = .err f := by
  rw [lastFailure, List.foldl_append, List.foldl_cons, acc_err, foldl_acc_of_all_ok _ h]

/-- Settles O53, by induction on the list of results. -/
theorem accumulatedResultIsTheLastFailure : Obligations.AccumulatedResultIsTheLastFailure := by
  refine ⟨acc_eq_ite, fun rs => ?_, fun before after f h => lastFailure_of_last h⟩
  rw [lastFailure, foldl_acc_eq_ok_iff, eq_self, true_and]

/-! ### The image and its byte -/

theorem bitAt_getLsbD (b : Bool) {p i : Nat} (hi : i < 8) : (bitAt b p).getLsbD i = (decide (i = p) && b) := by
  by_cases hp : i < p
  · have hne : i ≠ p := by omega
    simp [bitAt, hp, hne]
  · have hzero : i = p ↔ i - p = 0 := by omega
    simp [bitAt, hi, hp, hzero, BitVec.getLsbD_ofBool]

/-- Bit `i` of the byte of an image (10_state.md R21). -/
theorem byte_getLsbD (l : Layout) (g : Img) {i : Nat} (hi : i < 8) :
    (g.byte l).getLsbD i = (decide (l.d ≤ i) && g.d.getLsbD (i - l.d) || decide (i = l.bl) && g.bl ||
      decide (i = l.e) && g.e || decide (i = l.rw) && g.rw || decide (i = l.rs) && g.rs) := by
  have hd : (g.d.setWidth 8 <<< l.d).getLsbD i = (decide (l.d ≤ i) && g.d.getLsbD (i - l.d)) := by
    by_cases h : i < l.d
    · rw [BitVec.getLsbD_shiftLeft, decide_eq_true h, decide_eq_false (Nat.not_le.2 h), Bool.not_true, Bool.and_false,
        Bool.false_and, Bool.false_and]
    · simp [hi, h, Nat.le_of_not_lt h]
  simp only [Img.byte, BitVec.getLsbD_or, bitAt_getLsbD _ hi, hd]

/-- The eight bit positions of a layout. -/
def bitPositions (l : Layout) : List Nat := [l.d, l.d + 1, l.d + 2, l.d + 3, l.bl, l.e, l.rw, l.rs]

/-- The fields of a valid layout lie apart and inside the byte. -/
theorem bitPositions_of_valid {l : Layout} (h : l.valid = true) :
    (bitPositions l).Nodup ∧ ∀ p ∈ bitPositions l, p < 8 := by
  simp [Layout.valid] at h
  simp [bitPositions]
  omega

/-- There are at most `n` different numbers below `n`. -/
theorem length_le_of_nodup_of_lt {n : Nat} {ps : List Nat} (hnodup : ps.Nodup) (hlt : ∀ p ∈ ps, p < n) :
    ps.length ≤ n := by
  induction n generalizing ps with
  | zero => rw [List.eq_nil_iff_forall_not_mem.2 fun p hp => Nat.not_lt_zero p (hlt p hp)]; exact Nat.le_refl 0
  | succ n ih =>
    have herase : (ps.erase n).length ≤ n := ih (hnodup.erase n) fun p hp => by
      obtain ⟨hne, hmem⟩ := hnodup.mem_erase_iff.1 hp
      have hle := hlt p hmem
      omega
    have hlength := List.le_length_erase (a := n) (l := ps)
    omega

/-- Eight different positions in a byte are all of them. -/
theorem mem_bitPositions {l : Layout} (h : l.valid = true) {i : Nat} (hi : i < 8) : i ∈ bitPositions l := by
  obtain ⟨hnodup, hlt⟩ := bitPositions_of_valid h
  refine Decidable.byContradiction fun hmem => ?_
  have hnine : (i :: bitPositions l).length ≤ 8 :=
    length_le_of_nodup_of_lt (List.nodup_cons.2 ⟨hmem, hnodup⟩) (List.forall_mem_cons.2 ⟨hi, hlt⟩)
  exact absurd hnine (by decide : ¬8 + 1 ≤ 8)

/-- The byte holds each field at its own position. -/
structure FieldsAt (l : Layout) (g : Img) (v : Byte) : Prop where
  rs : v.getLsbD l.rs = g.rs
  rw : v.getLsbD l.rw = g.rw
  e : v.getLsbD l.e = g.e
  bl : v.getLsbD l.bl = g.bl
  d : ∀ j, j < 4 → v.getLsbD (l.d + j) = g.d.getLsbD j

/-- The nibble reaches no bit outside its four positions. -/
theorem nibble_outside (d : Nibble) {n p : Nat} (h : p < n ∨ n + 4 ≤ p) :
    (decide (n ≤ p) && d.getLsbD (p - n)) = false := by
  rcases h with h | h
  · rw [decide_eq_false (Nat.not_le.2 h), Bool.false_and]
  · rw [BitVec.getLsbD_of_ge d (p - n) (by omega), Bool.and_false]

theorem byte_fieldsAt {l : Layout} (h : l.valid = true) (g : Img) : FieldsAt l g (g.byte l) := by
  simp only [Layout.valid, Bool.and_eq_true, decide_eq_true_eq, List.all_cons, List.all_nil, Bool.or_eq_true,
    List.nodup_cons, List.mem_cons, List.not_mem_nil, or_false, not_or, not_false_eq_true, List.nodup_nil, and_true] at h
  obtain ⟨⟨hd, ⟨hrsrw, hrse, hrsbl⟩, ⟨hrwe, hrwbl⟩, hebl⟩, ⟨hrs, hrs'⟩, ⟨hrw, hrw'⟩, ⟨he, he'⟩, hbl, hbl'⟩ := h
  refine ⟨?_, ?_, ?_, ?_, fun j hj => ?_⟩
  · simp [byte_getLsbD l g hrs, nibble_outside g.d hrs', hrsrw, hrse, hrsbl]
  · simp [byte_getLsbD l g hrw, nibble_outside g.d hrw', Ne.symm hrsrw, hrwe, hrwbl]
  · simp [byte_getLsbD l g he, nibble_outside g.d he', Ne.symm hrse, Ne.symm hrwe, hebl]
  · simp [byte_getLsbD l g hbl, nibble_outside g.d hbl', Ne.symm hrsbl, Ne.symm hrwbl, Ne.symm hebl]
  · have hne : ∀ p, p < l.d ∨ l.d + 4 ≤ p → l.d + j ≠ p := by omega
    simp [byte_getLsbD l g (show l.d + j < 8 by omega), hne _ hrs', hne _ hrw', hne _ he', hne _ hbl']

theorem ofByte_fieldsAt (l : Layout) (v : Byte) : FieldsAt l (Img.ofByte l v) v :=
  ⟨rfl, rfl, rfl, rfl, fun j hj => by simp [Img.ofByte, dField, hj]⟩

/-- The fields at a valid layout's positions are the whole byte. -/
theorem FieldsAt.byte_eq {l : Layout} (h : l.valid = true) {g : Img} {v w : Byte} (hv : FieldsAt l g v)
    (hw : FieldsAt l g w) : v = w := by
  refine BitVec.eq_of_getLsbD_eq fun i hi => ?_
  have hmem := mem_bitPositions h hi
  simp only [bitPositions, List.mem_cons, List.not_mem_nil, or_false] at hmem
  rcases hmem with rfl | rfl | rfl | rfl | rfl | rfl | rfl | rfl
  · exact (hv.d 0 (by decide)).trans (hw.d 0 (by decide)).symm
  · exact (hv.d 1 (by decide)).trans (hw.d 1 (by decide)).symm
  · exact (hv.d 2 (by decide)).trans (hw.d 2 (by decide)).symm
  · exact (hv.d 3 (by decide)).trans (hw.d 3 (by decide)).symm
  · exact hv.bl.trans hw.bl.symm
  · exact hv.e.trans hw.e.symm
  · exact hv.rw.trans hw.rw.symm
  · exact hv.rs.trans hw.rs.symm

/-- The byte determines the fields. -/
theorem FieldsAt.ofByte_eq {l : Layout} {g : Img} {v : Byte} (hv : FieldsAt l g v) : Img.ofByte l v = g := by
  obtain ⟨hrs, hrw, he, hbl, hd⟩ := hv
  have hdd : dField l v = g.d := BitVec.eq_of_getLsbD_eq fun j hj => by simpa [dField, hj] using hd j hj
  cases g
  simp_all [Img.ofByte]

/-- Settles O55: a valid layout's positions are the eight bits of the byte, so image and byte hold each other's fields. -/
theorem imageFieldsFillTheByte : Obligations.ImageFieldsFillTheByte := by
  intro l h
  exact ⟨fun g => (byte_fieldsAt h g).ofByte_eq,
    fun v => FieldsAt.byte_eq h (byte_fieldsAt h (Img.ofByte l v)) (ofByte_fieldsAt l v)⟩

/-- Settles O56: the 256 images of the default layout, evaluated. -/
theorem defaultLayoutPacksAsListed : Obligations.DefaultLayoutPacksAsListed := by
  refine ⟨fun ⟨rs, rw, e, bl, d⟩ => ?_, by decide⟩
  revert d
  cases rs <;> cases rw <;> cases e <;> cases bl <;> decide

/-! ### The response word -/

/-- The six fields of the word, each at its place (30_encoding.md R84). -/
theorem word_fields (r : Response) :
    r.word.extractLsb' 48 8 = codeOf r.result ∧ r.word.extractLsb' 32 16 = ecodeOf r.result ∧
      r.word.extractLsb' 24 8 = r.data ∧ r.word.extractLsb' 16 8 = r.ac ∧ r.word.extractLsb' 8 8 = r.col ∧
      r.word.extractLsb' 0 8 = r.row := by
  unfold Response.word
  refine ⟨?_, ?_, ?_, ?_, ?_, ?_⟩ <;> ext i hi <;>
    simp only [BitVec.getElem_extractLsb', BitVec.getLsbD_append] <;> grind

theorem ecodeOf_eq_zero {r : Result} (h : ∀ c, r ≠ .err (.ioFailure c)) : ecodeOf r = 0#16 := by
  rcases r with _ | _ | _ | _ | _ | c | _
  case err.ioFailure => exact absurd rfl (h c)
  all_goals rfl

theorem delivered_of_err {r : Response} {f : Failure} (h : r.result = .err f) : r.delivered = Response.failed f := by
  rw [Response.delivered, h]

theorem delivered_of_ok {r : Response} (h : r.result = .ok) : r.delivered = r := by
  rw [Response.delivered, h]

theorem failed_ioFailure_word (c : ECode) : (Response.failed (.ioFailure c)).word = 0x05#8 ++ c ++ 0#32 := by
  show 0x05#8 ++ c ++ 0#8 ++ 0#8 ++ 0#8 ++ 0#8 = 0x05#8 ++ c ++ 0#32
  ext i hi
  simp only [BitVec.getElem_append, BitVec.getElem_zero]
  grind

/-- Settles O57: the word's fields read back, and the codes are those of R85. -/
theorem responseWordCarriesTheFields : Obligations.ResponseWordCarriesTheFields := by
  refine ⟨fun r => ?_, fun _ _ => delivered_of_err, fun _ => delivered_of_ok, failed_ioFailure_word⟩
  obtain ⟨hcode, hecode, hvalues⟩ := word_fields r
  rw [hcode, hecode]
  refine ⟨?_, fun c hc => by rw [hc]; rfl, ecodeOf_eq_zero, hvalues⟩
  rcases r.result with _ | _ | _ | _ | _ | c | _ <;> rfl

end Sys2Proof.Machine
end

section
/-! What one step of the block does: the command it accepts, the bus event it issues, the registers it may change
(10_state.md R24 to R33, 20_memory.md R50 to R62). -/

namespace Sys2Proof.Machine

/-! ### Acceptance and reset -/

/-- Settles O6: with no reset due, idle, and a decodable command at the head of the list, `step` takes the arm of `exec`. -/
theorem stepRunsTheDecodedCommand : Obligations.StepRunsTheDecodedCommand := by
  intro s p ps i hreset hidle hhost hdecode
  simp [step, hreset, hidle, hhost, hdecode]

/-- Settles O7: the illegal command's response is ready at acceptance, and delivery is all that follows. -/
theorem illegalCommandIsAnsweredWithoutEffect : Obligations.IllegalCommandIsAnsweredWithoutEffect := by
  intro s p ps e hreset hidle hhost hdecode
  refine ⟨{ s with host := ps }.acceptIllegal, by simp [step, hreset, hidle, hhost, hdecode], ?_⟩
  rw [State.acceptIllegal, drive_acceptWith (s := { s with host := ps }) hreset _ 0]
  simp only [State.answered, delivered_of_err (r := Response.failed .invalidArgument) rfl, hidle]

/-- Settles O9: a due reset event is the whole step. -/
theorem resetEventGivesTheResetState : Obligations.ResetEventGivesTheResetState := by
  intro s hreset
  refine ⟨s.resetEvent, by simp [step, hreset], ?_⟩
  exact ⟨rfl, rfl, rfl, rfl, rfl, rfl, rfl, rfl, rfl, rfl, rfl, rfl, rfl, rfl⟩

/-- Settles O10: the reset state evaluated. -/
theorem resetStateIsTheSpecs : Obligations.ResetStateIsTheSpecs := by
  unfold Obligations.ResetStateIsTheSpecs
  decide

/-- The clauses of the invariant. -/
theorem inv_iff (s : State) :
    Inv s ↔ s.cfg.legal = true ∧ s.dev.nameLegal s.cfg = true ∧ (s.isOpen = true → nameOk s.cfg s.ldev = true) ∧
      (∀ r ∈ s.responses, resultFits s.cfg r.result = true) ∧ answersFit s.cfg s.env = true ∧ seqOk s = true := by
  simp only [Inv, invOk, Bool.and_eq_true, Bool.or_eq_true, Bool.not_eq_true', List.all_eq_true, and_assoc]
  rw [← Bool.not_eq_true, ← Decidable.imp_iff_not_or]

/-- Under legal parameters the reset name is a legal one and the strobe is low in the reset image. -/
theorem reset_legal {c : Config} (h : c.legal = true) :
    Payload.nameLegal c (some Config.devReset) = true ∧ c.imgReset.getLsbD c.layout.e = false := by
  simp only [Config.legal, Bool.and_eq_true, decide_eq_true_eq, Bool.not_eq_true'] at h
  obtain ⟨⟨⟨⟨-, hname⟩, -⟩, -⟩, hstrobe⟩ := h
  exact ⟨by simp only [Payload.nameLegal, hname, decide_true, Bool.and_true]; rfl, hstrobe⟩

/-- Settles O11: a legal choice of the parameters makes the reset name legal and the reset strobe low. -/
theorem invariantHoldsAtReset : Obligations.InvariantHoldsAtReset := by
  intro c hlegal
  obtain ⟨hname, hstrobe⟩ := reset_legal hlegal
  have hseq : seqOk (State.resetOf c) = true := by simp [seqOk, State.resetOf, Img.ofByte, hstrobe]
  exact (inv_iff _).2 ⟨hlegal, hname, fun h => Bool.noConfusion h, fun r hr => absurd hr (by simp [State.resetOf]), rfl, hseq⟩

/-! ### The bus event of a step -/

/-- What the step from `s` to `t` has done when it has issued the event: where the event went, and what has become of
`OPEN` and of the live binding. -/
inductive StepEvent (s t : State) : BusEvent → Prop where
  | wrote (x : WriteAnswer) (ho : s.isOpen = true) (hopen : t.isOpen = true) (hdev : t.ldev = s.ldev)
      (haddr : t.laddr = s.laddr) : StepEvent s t (.wrote s.ldev s.laddr (t.img.byte t.cfg.layout) x)
  | sampled (x : ReadAnswer) (ho : s.isOpen = true) (hopen : t.isOpen = true) (hdev : t.ldev = s.ldev)
      (haddr : t.laddr = s.laddr) : StepEvent s t (.sampled s.ldev s.laddr x)
  | closed (ho : s.isOpen = true) (hx : s.excl = false) (hopen : t.isOpen = false) (hdev : t.ldev = s.ldev)
      (haddr : t.laddr = s.laddr) : StepEvent s t .closed
  | bound (name : List Byte) (ho : s.isOpen = false) (hd : s.dev = some name) (hopen : t.isOpen = true)
      (hdev : t.ldev = name) (haddr : t.laddr = s.addr) : StepEvent s t (.opened name s.addr .ok)
  | refused (name : List Byte) (x : OpenAnswer) (hx : x ≠ .ok) (ho : s.isOpen = false) (hd : s.dev = some name)
      (hopen : t.isOpen = false) (hdev : t.ldev = s.ldev) (haddr : t.laddr = s.laddr) :
      StepEvent s t (.opened name s.addr x)

/-- A `BusOpen` and its parking, in terms of what has become of the connection. -/
theorem stepEvent_busOpen {s : State} {g : Img} {name : List Byte} (ho : s.isOpen = false) (hd : s.dev = some name)
    (k : List Op) (w : Work) :
    StepEvent s (((s.withImg g).busOpen name).2.park k w) (.opened name s.addr (s.env.takeOpen s.cfg).1) := by
  rw [busOpen_eq]
  by_cases ha : (s.env.takeOpen s.cfg).1 = .ok
  · have ha' : ((s.withImg g).env.takeOpen (s.withImg g).cfg).1 = .ok := ha
    rw [if_pos ha', ha]
    exact .bound name ho hd rfl rfl rfl
  · have ha' : ¬((s.withImg g).env.takeOpen (s.withImg g).cfg).1 = .ok := ha
    rw [if_neg ha']
    exact .refused name _ ha ho hd ho rfl rfl

/-- A step of a running procedure issues no event and keeps the connection, or issues one event. -/
theorem Ends.event {s t : State} {g : Img} (h : Ends s g t) :
    (t.trace = s.trace ∧ t.isOpen = s.isOpen ∧ t.ldev = s.ldev ∧ t.laddr = s.laddr) ∨
      ∃ e, t.trace = s.trace ++ [e] ∧ StepEvent s t e := by
  cases h with
  | answer r => exact .inl ⟨rfl, rfl, rfl, rfl⟩
  | write ho k w => exact .inr ⟨_, rfl, .wrote _ ho ho rfl rfl⟩
  | read ho k w => exact .inr ⟨_, rfl, .sampled _ ho ho rfl rfl⟩
  | close ho hx k w => exact .inr ⟨_, rfl, .closed ho hx rfl rfl rfl⟩
  | opening ho name hd k w => exact .inr ⟨_, by simp [State.withImg], stepEvent_busOpen ho hd k w⟩

/-- A step issues no event, and keeps the connection unless it is a reset event, or it issues one event. -/
theorem step_event {s t : State} (h : step s = .next t) :
    (t.trace = s.trace ∧ (s.resetReq = false → t.isOpen = s.isOpen ∧ t.ldev = s.ldev ∧ t.laddr = s.laddr)) ∨
      ∃ e, t.trace = s.trace ++ [e] ∧ StepEvent s t e := by
  cases step_kind h with
  | reset hr => exact .inl ⟨rfl, fun hn => absurd hr (by rw [hn]; decide)⟩
  | run hr w hs g t he => exact he.event.imp_left fun ⟨htrace, hconn⟩ => ⟨htrace, fun _ => hconn⟩
  | wait hr hs hh => exact .inl ⟨rfl, fun _ => ⟨rfl, rfl, rfl⟩⟩
  | accept hr hs p ps hh i hd t ha => exact .inl ⟨ha.trace, fun _ => ⟨ha.isOpen, ha.ldev, ha.laddr⟩⟩
  | illegal hr hs p ps hh e hd => exact .inl ⟨rfl, fun _ => ⟨rfl, rfl, rfl⟩⟩

/-- The event by which the trace has grown is the step's event. -/
theorem step_event_of_trace {s t : State} (h : step s = .next t) {e : BusEvent} (he : t.trace = s.trace ++ [e]) :
    StepEvent s t e := by
  obtain ⟨hsame, -⟩ | ⟨e', he', hevent⟩ := step_event h
  · rw [he] at hsame
    exact absurd hsame (by simp)
  · rw [he, List.append_cancel_left_eq, List.cons.injEq] at he'
    rw [he'.1]
    exact hevent

/-- Settles O14: the step's one event, if there is one, is appended. -/
theorem stepIssuesAtMostOneBusEvent : Obligations.StepIssuesAtMostOneBusEvent := fun _ _ h =>
  (step_event h).imp And.left fun ⟨e, he, _⟩ => ⟨e, he⟩

/-- Settles O15: the two kinds of transfer among the events of a step. -/
theorem transfersReachTheLiveTarget : Obligations.TransfersReachTheLiveTarget := by
  refine fun s t h => ⟨fun name a v x he => ?_, fun name a x he => ?_⟩
  · cases step_event_of_trace h he with
    | wrote _ ho => exact ⟨ho, rfl, rfl, rfl⟩
  · cases step_event_of_trace h he with
    | sampled _ ho => exact ⟨ho, rfl, rfl⟩

/-- Settles O16: a `BusOpen` has bound the connection or has been refused. -/
theorem busOpenBindsTheConfiguredTarget : Obligations.BusOpenBindsTheConfiguredTarget := by
  intro s t name a x h he
  cases step_event_of_trace h he with
  | bound _ ho hd hopen hdev haddr =>
    exact ⟨ho, hd, rfl, fun _ => ⟨hopen, hdev, haddr⟩, fun hne => absurd rfl hne⟩
  | refused _ _ hx ho hd hopen hdev haddr =>
    exact ⟨ho, hd, rfl, fun hok => absurd hok hx, fun _ => ⟨hopen, hdev, haddr⟩⟩

/-- Settles O17: the `BusClose` among the events of a step. -/
theorem busCloseNeedsSharedMode : Obligations.BusCloseNeedsSharedMode := by
  intro s t h he
  cases step_event_of_trace h he with
  | closed ho hx hopen => exact ⟨ho, hx, hopen⟩

/-- Settles O18: of the events a step can issue only a successful `BusOpen` and a `BusClose` touch the connection. -/
theorem openFlagFollowsTheBusEvents : Obligations.OpenFlagFollowsTheBusEvents := by
  intro s t hreset h
  obtain ⟨-, hkeep⟩ | ⟨e, he, hevent⟩ := step_event h
  · obtain ⟨hopen, hdev, haddr⟩ := hkeep hreset
    simp [hopen, hdev, haddr]
    exact ⟨fun h0 h1 => absurd h1 (by simp [h0]), fun h1 h0 => absurd h0 (by simp [h1])⟩
  · rw [he]
    cases hevent with
    | wrote x ho hopen hdev haddr | sampled x ho hopen hdev haddr | closed ho hx hopen hdev haddr
    | refused name x hx ho hd hopen hdev haddr => simp [ho, hopen, hdev, haddr]
    | bound name ho hd hopen hdev haddr => simp [ho, hopen]

/-! ### The registers a step may change -/

theorem Ends.sameSettings {s t : State} {g : Img} (h : Ends s g t) : sameSettings s t := by
  cases h with
  | answer r | write ho k w | read ho k w | close ho hx k w => exact ⟨rfl, rfl, rfl, rfl, rfl, rfl⟩
  | opening ho name hd k w => simp [Machine.sameSettings, State.withImg]

/-- Settles O19: a running command changes no setting, and only the acceptance of its setter changes a setting. -/
theorem settingsAreWrittenOnlyByTheirSetters : Obligations.SettingsAreWrittenOnlyByTheirSetters := by
  intro s t hreset h
  cases step_kind h with
  | reset hr => exact absurd hr (by rw [hreset]; decide)
  | run hr w hs g t he =>
    obtain ⟨hcfg, hexcl, haddr, hdev, -, -⟩ := he.sameSettings
    exact ⟨hcfg, fun hne => absurd hexcl hne, fun hne => absurd haddr hne, fun hne => absurd hdev hne⟩
  | wait hr hs hh => exact ⟨rfl, fun hne => absurd rfl hne, fun hne => absurd rfl hne, fun hne => absurd rfl hne⟩
  | illegal hr hs p ps hh e hd =>
    exact ⟨rfl, fun hne => absurd rfl hne, fun hne => absurd rfl hne, fun hne => absurd rfl hne⟩
  | accept hr hs p ps hh i hd t ha =>
    refine ⟨ha.cfg, fun hne => ⟨p, ps, hs, hh, ?_⟩, fun hne => ⟨p, ps, hs, hh, ?_⟩, fun hne => ⟨p, ps, hs, hh, ?_⟩⟩
    · rw [hd, ha.excl.resolve_left hne]
    · rw [hd, ha.addr.resolve_left hne]
    · rw [hd, ha.dev.resolve_left hne]

/-- A step of a running procedure goes on with no response, or ends the command with one response. -/
theorem Ends.responses {s t : State} {g : Img} (h : Ends s g t) :
    (∃ w, t.seq = .running w ∧ t.responses = s.responses) ∨ (t.seq = .idle ∧ ∃ r, t.responses = s.responses ++ [r]) := by
  cases h with
  | answer r => exact .inr ⟨rfl, _, rfl⟩
  | write ho k w | read ho k w | close ho hx k w => exact .inl ⟨_, rfl, rfl⟩
  | opening ho name hd k w => exact .inl ⟨_, rfl, by simp [State.withImg]⟩

/-- Settles O8: every end of a step of a running procedure keeps the host's list. -/
theorem runningBlockTakesNoCommand : Obligations.RunningBlockTakesNoCommand := by
  intro s t w hreset hseq h
  rw [step_running hreset hseq] at h
  obtain ⟨g, hends⟩ := advance_ends _ _ _ _ h
  obtain ⟨-, -, -, -, hhost, -⟩ := hends.sameSettings
  exact ⟨hhost, hends.responses⟩

end Sys2Proof.Machine
end

section
/-! The commands of the bus transport and of the configuration access in every state (40_bus_transport.md,
41_config_access.md), and the display commands that end before they reach the bus. -/

namespace Sys2Proof.Machine

/-! ### Commands without a bus event -/

/-- Settles O32: the response fixed at acceptance carries the bit's byte. -/
theorem getBacklightAnswersTheBit : Obligations.GetBacklightAnswersTheBit := by
  intro s hreset
  rw [← bitByte_eq_ite]
  exact answered_of_exec_acceptWith hreset rfl

/-- Settles O36: acceptance writes the flag and fixes the response. -/
theorem setExclusiveChangesTheFlagOnly : Obligations.SetExclusiveChangesTheFlagOnly := fun s f hreset =>
  answered_of_exec_acceptWith (u := { s with excl := f }) hreset rfl

/-- Settles O37: acceptance writes the address and fixes the response. -/
theorem setAddressStoresAnyByte : Obligations.SetAddressStoresAnyByte := fun s a hreset =>
  answered_of_exec_acceptWith (u := { s with addr := a }) hreset rfl

/-- Settles O38: acceptance writes the name and fixes the response. -/
theorem setDeviceStoresTheName : Obligations.SetDeviceStoresTheName := fun s p hreset =>
  answered_of_exec_acceptWith (u := { s with dev := p }) hreset rfl

/-- Settles O47: an absent text is answered at acceptance. -/
theorem lineWithoutTextIsInvalid : Obligations.LineWithoutTextIsInvalid := fun _ _ hreset =>
  answered_of_exec_acceptWith hreset rfl

/-! ### Running a short list of micro-operations -/

/-- The response of a fresh command after its one result. -/
@[simp] theorem fresh_addResult_resp (k : List Op) (r : Result) :
    ((Work.fresh k Response.plain).addResult r).resp = Response.ofResult r := by
  simp [Work.fresh, Response.ofResult, Response.plain]

/-- A list of micro-operations that leads to its end with the result `r`, as the run of an accepted command. -/
theorem accepted_run {i : Instr} {b : Nat} {k : List Op} {s s' : State} {r : Result} (hreset : s.resetReq = false)
    (hexec : exec i s = .next (s.accept k))
    (h : LeadsWithin b k (Work.fresh k Response.plain) s [] ((Work.fresh k Response.plain).addResult r) s') :
    ∃ t, exec i s = .next t ∧ drive (b + 1) t = .next (s'.answered (Response.ofResult r)) :=
  ⟨_, hexec, by rw [h.accept_finish hreset, fresh_addResult_resp]⟩

/-! ### OPEN -/

/-- An `open()` that succeeds is at most one bus event. -/
theorem openConn_within_ok {s s1 : State} (hreset : s.resetReq = false) (h : procOpen s = (.ok, s1)) (k : List Op)
    (w : Work) : LeadsWithin 1 (.openConn :: k) w s k w s1 := by
  unfold procOpen at h
  split at h
  · rename_i ho
    cases h
    exact ⟨0, by decide, Leads.quiet (by rw [advance, if_pos ho])⟩
  · rename_i ho
    split at h
    · cases h
    · rename_i n hd
      exact ⟨1, by decide, Leads.event ((busOpen_sameSettings h).reset hreset)
        (by rw [advance, if_neg ho]; simp only [hd, h])⟩

/-- An `open()` that fails ends the command. -/
theorem openConn_within_err {s s1 : State} {f : Failure} (hreset : s.resetReq = false) (h : procOpen s = (.err f, s1))
    (k : List Op) (w : Work) : LeadsWithin 1 (.openConn :: k) w s [] (w.addResult (.err f)) s1 := by
  unfold procOpen at h
  split at h
  · cases h
  · rename_i ho
    split at h
    · rename_i hd
      cases h
      exact ⟨0, by decide, Leads.quiet (by rw [advance, advance, if_neg ho]; simp only [hd])⟩
    · rename_i n hd
      exact ⟨1, by decide, Leads.event ((busOpen_sameSettings h).reset hreset)
        (by rw [advance, if_neg ho]; simp only [hd, h])⟩

/-- `OPEN` runs `open()`. -/
theorem openBus_run {s : State} (hreset : s.resetReq = false) :
    ∃ t, exec .openBus s = .next t ∧ drive 2 t = .next ((procOpen s).2.answered (Response.ofResult (procOpen s).1)) := by
  rcases hopen : procOpen s with ⟨_ | f, s1⟩
  · exact accepted_run hreset rfl (openConn_within_ok hreset hopen [] _)
  · exact accepted_run hreset rfl (openConn_within_err hreset hopen [] _)

/-- Settles O25: `open()` written out. -/
theorem openAcquiresTheConnection : Obligations.OpenAcquiresTheConnection := by
  intro s hreset
  obtain ⟨t, hexec, hrun⟩ := openBus_run hreset
  refine ⟨t, hexec, hrun.trans (congrArg _ ?_)⟩
  unfold procOpen
  split
  · rfl
  · cases hd : s.dev with
    | none => rfl
    | some name =>
      dsimp only [State.busOpen]
      rcases s.env.takeOpen s.cfg with ⟨_ | _ | c, v⟩ <;> rw [← hd] <;> rfl

/-! ### CLOSE -/

/-- `CLOSE` runs `close()`. -/
theorem closeBus_run {s : State} (hreset : s.resetReq = false) :
    ∃ t, exec .closeBus s = .next t ∧ drive 2 t = .next ((procClose s).answered Response.plain) :=
  ⟨_, rfl, (closeConn_within hreset [] _).accept_finish hreset⟩

/-- Settles O26: `close()` written out. -/
theorem closeReleasesUnlessExclusive : Obligations.CloseReleasesUnlessExclusive := by
  intro s hreset
  obtain ⟨t, hexec, hrun⟩ := closeBus_run hreset
  refine ⟨t, hexec, hrun.trans (congrArg _ ?_)⟩
  have hcond : (s.isOpen && !s.excl) = true ↔ s.isOpen = true ∧ s.excl = false := by simp
  unfold procClose
  simp only [hcond]
  split <;> rfl

/-! ### WRREG, LATCH, SETBL -/

/-- `WRREG` runs `writeRegister()`. -/
theorem wrreg_run {s : State} (hreset : s.resetReq = false) :
    ∃ t, exec .wrreg s = .next t ∧
      drive 4 t = .next ((procWriteRegister s).2.answered (Response.ofResult (procWriteRegister s).1)) :=
  accepted_run hreset rfl (writeReg_within hreset .result [] _)

/-- A `writeRegister()` through a transient connection. -/
theorem procWriteRegister_transient {s : State} {name : List Byte} {v : Env} (ho : s.isOpen = false)
    (hd : s.dev = some name) (ha : s.env.takeOpen s.cfg = (.ok, v)) :
    procWriteRegister s =
      (writeResult (v.takeWrite s.cfg).1,
        { s with
            isOpen := s.excl, ldev := name, laddr := s.addr, env := (v.takeWrite s.cfg).2
            trace := s.trace ++ [.opened name s.addr .ok, .wrote name s.addr (s.img.byte s.cfg.layout) (v.takeWrite s.cfg).1]
              ++ closeTrace s.excl }) := by
  have hopen : procOpen s = (.ok, (s.record (.opened name s.addr .ok) v).bind name) := by
    simp only [procOpen, ho, Bool.false_eq_true, if_false, hd, State.busOpen, ha, openResult]
  rw [procWriteRegister, if_neg (by rw [ho]; decide), hopen]
  cases hx : s.excl <;>
    simp [procClose, hx, memWrite_snd, memWrite_fst, State.bind, State.record, State.busClose, closeTrace]

/-- An `open()` whose `BusOpen` is refused. -/
theorem procOpen_refused {s : State} {name : List Byte} {a : OpenAnswer} {v : Env} (ho : s.isOpen = false)
    (hd : s.dev = some name) (ha : s.env.takeOpen s.cfg = (a, v)) (hne : a ≠ .ok) :
    procOpen s = (openResult a, s.record (.opened name s.addr a) v) := by
  simp only [procOpen, ho, Bool.false_eq_true, if_false, hd, State.busOpen, ha]

/-- A `writeRegister()` whose `BusOpen` is refused. -/
theorem procWriteRegister_refused {s : State} {name : List Byte} {a : OpenAnswer} {v : Env} (ho : s.isOpen = false)
    (hd : s.dev = some name) (ha : s.env.takeOpen s.cfg = (a, v)) (hne : a ≠ .ok) :
    procWriteRegister s = (openResult a, s.record (.opened name s.addr a) v) := by
  rw [procWriteRegister, if_neg (by rw [ho]; decide), procOpen_refused ho hd ha hne]
  cases a with
  | ok => exact absurd rfl hne
  | addrFail | ioFail c => rfl

/-- A `writeRegister()` with no connection and no device name. -/
theorem procWriteRegister_unspecified {s : State} (ho : s.isOpen = false) (hd : s.dev = none) :
    procWriteRegister s = (.err .deviceUnspecified, s) := by
  simp only [procWriteRegister, procOpen, ho, Bool.false_eq_true, if_false, hd]

/-- Settles O27: the four cases of `writeRegister()`. -/
theorem writeRegisterSendsTheImage : Obligations.WriteRegisterSendsTheImage := by
  intro s hreset
  obtain ⟨t, hexec, hrun⟩ := wrreg_run hreset
  refine ⟨t, hexec, hrun.trans (congrArg _ ?_)⟩
  split
  · rename_i ho
    rw [procWriteRegister_open ho]
    rfl
  · rename_i ho
    rw [Bool.not_eq_true] at ho
    cases hd : s.dev with
    | none => rw [procWriteRegister_unspecified ho hd]; rfl
    | some name =>
      dsimp only
      rcases ha : s.env.takeOpen s.cfg with ⟨_ | _ | c, v⟩
      · rw [procWriteRegister_transient ho hd ha, ← hd]; rfl
      · rw [procWriteRegister_refused ho hd ha (by decide), ← hd]; rfl
      · rw [procWriteRegister_refused ho hd ha (by simp), ← hd]; rfl

/-- `LATCH` runs `latch()`. -/
theorem latch_run {s : State} (hreset : s.resetReq = false) :
    ∃ t, exec .latch s = .next t ∧ drive 7 t = .next ((procLatch s).2.answered (Response.ofResult (procLatch s).1)) := by
  have h := latch_within hreset .result [] (Work.fresh (latchOps .result) Response.plain)
  rw [List.append_nil] at h
  exact accepted_run hreset rfl h

/-- Settles O28: `latch()` is two `writeRegister()`s, and with a connection held each is one transfer. -/
theorem latchWritesTheStrobeHighThenLow : Obligations.LatchWritesTheStrobeHighThenLow := by
  intro s hreset
  obtain ⟨t, hexec, hrun⟩ := latch_run hreset
  refine ⟨t, hexec, hrun, fun ho => ?_⟩
  rw [hrun]
  refine ⟨_, ((s.stage (.e true)).env.takeWrite s.cfg).1, ((s.stage (.e true)).memWrite.2.env.takeWrite s.cfg).1, rfl, ?_⟩
  unfold procLatch
  dsimp only
  rw [procWriteRegister_open (s := s.stage (.e true)) ho,
    procWriteRegister_open (s := (s.stage (.e true)).memWrite.2.stage (.e false)) ho]
  refine ⟨rfl, ho, ?_⟩
  simp [Img.stage]

@[simp] theorem procOpen_img (s : State) : (procOpen s).2.img = s.img := by
  unfold procOpen
  split
  · rfl
  · split
    · rfl
    · exact busOpen_img _ s

@[simp] theorem procClose_img (s : State) : (procClose s).img = s.img := by
  unfold procClose
  split <;> rfl

@[simp] theorem procWriteRegister_img (s : State) : (procWriteRegister s).2.img = s.img := by
  have hopen := procOpen_img s
  unfold procWriteRegister
  split
  · rfl
  · split
    · rename_i h
      rw [h] at hopen
      exact hopen
    · rename_i h
      rw [h] at hopen
      simpa using hopen

/-- `SETBL f` stages the bit and runs `writeRegister()`. -/
theorem setbl_run {s : State} (hreset : s.resetReq = false) (f : Bool) :
    ∃ t, exec (.setbl f) s = .next t ∧
      drive 4 t = .next ((procWriteRegister (s.stage (.bl f))).2.answered
        (Response.ofResult (procWriteRegister (s.stage (.bl f))).1)) :=
  accepted_run hreset rfl
    ((stage_within (.bl f) _ _ s).trans (writeReg_within (s := s.stage (.bl f)) hreset .result [] _))

/-- Settles O31: the staged image is what `writeRegister()` keeps, and with a connection held it is one transfer. -/
theorem setBacklightStoresAndSends : Obligations.SetBacklightStoresAndSends := by
  intro s f hreset
  obtain ⟨t, hexec, hrun⟩ := setbl_run hreset f
  refine ⟨t, hexec, ⟨hrun, procWriteRegister_img _⟩, fun ho => ?_⟩
  obtain ⟨t', hexec', hrun'⟩ := accepted_run (i := .setbl f) hreset rfl
    ((stage_within (.bl f) _ _ s).trans ⟨1, Nat.le_refl 1, writeReg_held (s := s.stage (.bl f)) hreset ho .result [] _⟩)
  rw [hexec'] at hexec
  cases hexec
  exact hrun'

/-- Settles O39: each setter leaves its register at the value, and its getter fixes that value at acceptance. -/
theorem settersAndGettersRoundTrip : Obligations.SettersAndGettersRoundTrip := by
  intro s hreset
  refine ⟨fun a t v hexec hrun => ?_, fun f t v hexec hrun => ?_, fun p t v hexec hrun => ?_, fun f t v hexec hrun => ?_⟩
  · cases hexec
    rw [drive_acceptWith (s := { s with addr := a }) hreset] at hrun
    cases hrun
    exact answered_of_exec_acceptWith hreset rfl
  · cases hexec
    rw [drive_acceptWith (s := { s with excl := f }) hreset] at hrun
    cases hrun
    exact answered_of_exec_acceptWith hreset rfl
  · cases hexec
    rw [drive_acceptWith (s := { s with dev := p }) hreset] at hrun
    cases hrun
    exact answered_of_exec_acceptWith hreset rfl
  · obtain ⟨t', hexec', hrun'⟩ := setbl_run hreset f
    rw [hexec'] at hexec
    cases hexec
    rw [hrun'] at hrun
    cases hrun
    have hreset' := (procWriteRegister_settings (s.stage (.bl f))).reset hreset
    have hbl : (procWriteRegister (s.stage (.bl f))).2.img.bl = f := by rw [procWriteRegister_img]; rfl
    exact ⟨rfl, answered_of_exec_acceptWith hreset'
      (congrArg (fun b => Host.Outcome.next (State.acceptWith (Response.value (bitByte b)) _)) hbl)⟩

/-! ### Commands that end before they reach the bus -/

/-- A status read with no connection is `NotConnected`, without an event. -/
theorem readStart_closed_within {s : State} (ho : s.isOpen = false) (u : ReadUse) (k : List Op) (w : Work) :
    LeadsWithin 0 (.readStart u :: k) w s k (w.addResult (.err .notConnected)) s :=
  ⟨0, Nat.le_refl 0, Leads.quiet (readStart_closed (by rw [ho]; decide) u k w)⟩

/-- Settles O29: the test of `OPEN` comes before everything else. -/
theorem statusReadNeedsAConnection : Obligations.StatusReadNeedsAConnection := fun _ hreset ho =>
  ⟨accepted_run hreset rfl (readStart_closed_within ho .rdreg [] _),
    accepted_run hreset rfl (readStart_closed_within ho .getstat [] _)⟩

/-- Settles O48: `open()` is the first micro-operation of both sequences, and its failure ends them. -/
theorem sequencesReturnAtOnceWhenOpenFails : Obligations.SequencesReturnAtOnceWhenOpenFails := by
  intro s i off txt hi hreset ho
  obtain ⟨k, hexec⟩ : ∃ k, exec i s = .next (s.accept (.openConn :: k)) := by
    rcases hi with rfl | rfl <;> exact ⟨_, rfl⟩
  refine ⟨fun hd => ?_, fun name a v hd ha hne => ?_⟩
  · have hopen : advance (.openConn :: k) (Work.fresh (.openConn :: k) Response.plain) s =
        advance [] ((Work.fresh (.openConn :: k) Response.plain).addResult (.err .deviceUnspecified)) s := by
      rw [advance, advance, if_neg (by rw [ho]; decide)]
      simp only [hd]
    exact accepted_run hreset hexec ⟨0, Nat.le_refl 0, Leads.quiet hopen⟩
  · have hopen := procOpen_refused ho hd ha hne
    obtain ⟨f, hf⟩ : ∃ f, openResult a = .err f := by
      cases a with
      | ok => exact absurd rfl hne
      | addrFail | ioFail c => exact ⟨_, rfl⟩
    rw [hf] at hopen ⊢
    exact accepted_run hreset hexec (openConn_within_err hreset hopen k _)

end Sys2Proof.Machine
end

section
/-! The invariant: what an accepted command's list of micro-operations satisfies, and what every step keeps of it
(10_state.md R22, R31, 20_memory.md R53, R54, 60_exceptions.md opening). -/

namespace Sys2Proof.Machine

/-! ### The micro-operations of a command -/

/-- What a command has to do when it is accepted (nothing, where acceptance fixes the response). -/
def commandOps (c : Config) : Instr → List Op
  | .openBus      => [.openConn]
  | .closeBus     => [.closeConn]
  | .wrreg        => [.writeReg .result]
  | .latch        => latchOps .result
  | .rdreg        => [.readStart .rdreg]
  | .setbl f      => [.stage (.bl f), .writeReg .result]
  | .init         => .openConn :: initOps c
  | .wrbyte rs v  => writeByteOps c rs v
  | .clear        => writeByteOps c false c.opcClear
  | .home         => writeByteOps c false c.opcHome
  | .setdda off   => writeByteOps c false (setddaByte off)
  | .cursmode     => writeByteOps c false c.opcCursor
  | .line off (some bs) => .openConn :: lineOps c off bs
  | .getstat      => [.readStart .getstat]
  | .line _ none | .getbl | .setexcl _ | .getexcl | .setaddr _ | .getaddr | .setdev _ | .getdev => []

/-- An accepted command runs its micro-operations, from fresh working registers. -/
theorem exec_running {i : Instr} {s t : State} (h : exec i s = .next t) :
    ∃ r, t.seq = .running (Work.fresh (commandOps s.cfg i) r) ∧
      (r.result = .ok ∨ r.result = .err .invalidArgument) := by
  cases i with
  | line off x =>
    cases x with
    | none => cases h; exact ⟨_, rfl, .inr rfl⟩
    | some bs => cases h; exact ⟨_, rfl, .inl rfl⟩
  | openBus | closeBus | wrreg | latch | rdreg | setbl f | getbl | setexcl f | getexcl | setaddr a | getaddr | setdev p
  | getdev | init | wrbyte rs v | clear | home | setdda off | cursmode | getstat => cases h; exact ⟨_, rfl, .inl rfl⟩

/-- Every command is accepted in every state. -/
theorem exec_accepts (i : Instr) (s : State) : ∃ t, exec i s = .next t := by
  cases i with
  | line off x => cases x <;> exact ⟨_, rfl⟩
  | openBus | closeBus | wrreg | latch | rdreg | setbl f | getbl | setexcl f | getexcl | setaddr a | getaddr | setdev p
  | getdev | init | wrbyte rs v | clear | home | setdda off | cursmode | getstat => exact ⟨_, rfl⟩

/-! ### Transfers find a connection -/

/-- A list that may start without a connection may start with one. -/
theorem connectionOk_mono {k : List Op} (h : connectionOk false k = true) (held : Bool) : connectionOk held k = true := by
  cases held with
  | false => exact h
  | true =>
    induction k with
    | nil => rfl
    | cons op k ih => cases op <;> simp_all [connectionOk, needsConnection, heldAfter]

theorem connectionOk_readTail (c : Config) (u : ReadUse) (k : List Op) :
    connectionOk true (readTail c u ++ k) = connectionOk true k := by
  unfold readTail prewriteOps
  cases c.prewrite <;> simp [connectionOk, needsConnection, heldAfter]

theorem connectionOk_writeByteOps (c : Config) (rs : Bool) (v : Byte) (held : Bool) (k : List Op) :
    connectionOk held (writeByteOps c rs v ++ k) = connectionOk held k := by
  unfold writeByteOps stageNibbleOps prewriteOps latchOps
  cases c.prewrite <;> simp [connectionOk, needsConnection, heldAfter]

theorem connectionOk_rawNibbleOps (c : Config) (n : Nibble) (held : Bool) (k : List Op) :
    connectionOk held (rawNibbleOps c n ++ k) = connectionOk held k := by
  unfold rawNibbleOps stageNibbleOps prewriteOps latchOps
  cases c.prewrite <;> simp [connectionOk, needsConnection, heldAfter]

theorem connectionOk_bytes (c : Config) (rs : Bool) (vs : List Byte) (held : Bool) (k : List Op) :
    connectionOk held (vs.flatMap (writeByteOps c rs) ++ k) = connectionOk held k := by
  induction vs with
  | nil => rfl
  | cons v vs ih => rw [List.flatMap_cons, List.append_assoc, connectionOk_writeByteOps, ih]

theorem connectionOk_commandOps (c : Config) (i : Instr) (held : Bool) : connectionOk held (commandOps c i) = true := by
  cases i with
  | wrbyte rs v | clear | home | setdda off | cursmode =>
    rw [commandOps, ← List.append_nil (writeByteOps ..), connectionOk_writeByteOps]
    rfl
  | init =>
    simp only [commandOps, initOps, connectionOk, needsConnection, heldAfter, List.append_assoc, Bool.not_false,
      Bool.true_or, Bool.true_and, connectionOk_writeByteOps, connectionOk_rawNibbleOps]
  | line off x =>
    cases x with
    | none => rfl
    | some bs =>
      simp only [commandOps, lineOps, connectionOk, needsConnection, heldAfter, List.append_assoc, Bool.not_false,
        Bool.true_or, Bool.true_and, connectionOk_writeByteOps, connectionOk_bytes]
  | openBus | closeBus | wrreg | latch | rdreg | setbl f | getbl | setexcl f | getexcl | setaddr a | getaddr | setdev p
  | getdev | getstat => rfl

/-- Where the position is, every transfer to come finds a connection. -/
def Connected (s : State) : Prop := ∀ w, s.seq = .running w → connectionOk s.isOpen w.todo = true

theorem connected_park {s : State} {k : List Op} (h : connectionOk s.isOpen k = true) (w : Work) :
    Connected (s.park k w) := by
  intro w' hw
  cases hw
  exact h

theorem connected_startRead {s : State} {k : List Op} (ho : s.isOpen = true) (h : connectionOk s.isOpen k = true)
    (u : ReadUse) (w : Work) : Connected (startRead u k w s) := by
  intro w' hw
  obtain ⟨w'', hseq, htodo⟩ := startRead_seq u k w s
  rw [hseq] at hw
  cases hw
  rw [ho] at h
  rw [startRead_isOpen, ho, htodo, connectionOk_readTail, h]

/-- A procedure whose transfers find a connection has a next step, and they still do after it. -/
theorem advance_connected (k : List Op) (w : Work) (s : State) (hk : connectionOk s.isOpen k = true) :
    ∃ t, advance k w s = .next t ∧ Connected t := by
  fun_induction advance k w s with
  | case1 w s => exact ⟨_, rfl, fun w' hw => nomatch hw⟩
  | case4 k w s ho hd => exact ⟨_, rfl, fun w' hw => nomatch hw⟩
  | case2 f k w s ih => exact ih hk
  | case3 k w s ho ih => exact ih (by rw [ho]; exact hk)
  | case8 k w s hc ih => exact ih (connectionOk_mono hk _)
  | case10 d k w s ho hd ih | case16 u k w s ho ih | case19 u k w s f hrd ih | case21 u k w s hrd hb ho ih
  | case22 u k w s hrd hb ih => exact ih hk
  | case5 k w s ho n hd s1 hb =>
    have ho1 : s1.isOpen = true := by rw [(busOpen_ok hb).2]; rfl
    exact ⟨_, rfl, connected_park (by rw [ho1]; exact hk) w⟩
  | case6 k w s ho n hd f s1 hb => exact ⟨_, rfl, connected_park rfl _⟩
  | case7 k w s hc => exact ⟨_, rfl, connected_park (s := s.busClose) (k := k) hk w⟩
  | case9 d k w s ho => exact ⟨_, rfl, connected_park (s := s.memWrite.2) (k := k) hk _⟩
  | case11 d k w s ho n hd s1 hb =>
    have ho1 : s1.isOpen = true := by rw [(busOpen_ok hb).2]; rfl
    have hk0 : connectionOk false k = true := by rw [Bool.not_eq_true] at ho; rw [← ho]; exact hk
    exact ⟨_, rfl, connected_park (by rw [ho1]; exact hk0) w⟩
  | case12 d k w s ho n hd f s1 hb =>
    have hk0 : connectionOk false k = true := by rw [Bool.not_eq_true] at ho; rw [← ho]; exact hk
    exact ⟨_, rfl, connected_park (connectionOk_mono hk0 _) _⟩
  | case13 d k w s ho =>
    exact ⟨_, rfl, connected_park (s := s.memWrite.2) (k := k) (Bool.and_eq_true_iff.1 hk).2 _⟩
  | case17 h k w s ho =>
    exact ⟨_, rfl, connected_park (s := s.memRead.2) (k := k) (Bool.and_eq_true_iff.1 hk).2 _⟩
  | case14 d k w s ho | case18 h k w s ho => exact absurd (Bool.and_eq_true_iff.1 hk).1 ho
  | case15 u k w s ho | case20 u k w s hrd hb ho => exact ⟨_, rfl, connected_startRead (k := k) ho hk _ w⟩

/-- A connected state has a next step, and it is connected. -/
theorem step_connected {s : State} (h : Connected s) (hseq : s.seq ≠ .idle) : ∃ t, step s = .next t ∧ Connected t := by
  by_cases hreset : s.resetReq = true
  · exact ⟨s.resetEvent, by rw [step, if_pos hreset], fun w hw => nomatch hw⟩
  · cases hs : s.seq with
    | idle => exact absurd hs hseq
    | running w =>
      rw [step_running (by simpa using hreset) hs]
      exact advance_connected _ _ _ (h w hs)

theorem drive_connected (n : Nat) {s : State} (h : Connected s) : ∃ v, drive n s = .next v := by
  induction n generalizing s with
  | zero => exact ⟨s, rfl⟩
  | succ n ih =>
    cases hs : s.seq with
    | idle => exact ⟨s, drive_idle hs _⟩
    | running w =>
      obtain ⟨t, hstep, ht⟩ := step_connected h (by rw [hs]; exact Seq.noConfusion)
      obtain ⟨v, hv⟩ := ih ht
      exact ⟨v, by rw [drive]; simp only [hs, hstep, hv]⟩

theorem exec_connected {i : Instr} {s t : State} (h : exec i s = .next t) : Connected t := by
  obtain ⟨r, hseq, -⟩ := exec_running h
  intro w hw
  rw [hseq] at hw
  cases hw
  exact connectionOk_commandOps _ _ _

/-- Settles O24: from acceptance on every transfer finds a connection, and no other micro-operation can stop. -/
theorem commandsNeverStop : Obligations.CommandsNeverStop := by
  intro i s
  obtain ⟨t, hexec⟩ := exec_accepts i s
  exact ⟨t, hexec, fun n => drive_connected n (exec_connected hexec)⟩

/-! ### The strobe and the results -/

theorem strobeOk_readTail (c : Config) (u : ReadUse) (k : List Op) (e : Bool) :
    strobeOk (if c.prewrite then e else true) (readTail c u ++ k) = strobeOk false k := by
  unfold readTail prewriteOps
  cases c.prewrite <;> simp [strobeOk, writesNext]

theorem strobeOk_writeByteOps (c : Config) (rs : Bool) (v : Byte) (k : List Op) :
    strobeOk false (writeByteOps c rs v ++ k) = strobeOk false k := by
  unfold writeByteOps stageNibbleOps prewriteOps latchOps
  cases c.prewrite <;> simp [strobeOk, writesNext]

theorem strobeOk_rawNibbleOps (c : Config) (n : Nibble) (k : List Op) :
    strobeOk false (rawNibbleOps c n ++ k) = strobeOk false k := by
  unfold rawNibbleOps stageNibbleOps prewriteOps latchOps
  cases c.prewrite <;> simp [strobeOk, writesNext]

theorem strobeOk_bytes (c : Config) (rs : Bool) (vs : List Byte) (k : List Op) :
    strobeOk false (vs.flatMap (writeByteOps c rs) ++ k) = strobeOk false k := by
  induction vs with
  | nil => rfl
  | cons v vs ih => rw [List.flatMap_cons, List.append_assoc, strobeOk_writeByteOps, ih]

theorem strobeOk_commandOps (c : Config) (i : Instr) : strobeOk false (commandOps c i) = true := by
  cases i with
  | wrbyte rs v | clear | home | setdda off | cursmode =>
    rw [commandOps, ← List.append_nil (writeByteOps ..), strobeOk_writeByteOps]
    rfl
  | init =>
    simp only [commandOps, initOps, strobeOk, List.append_assoc, Bool.not_false, Bool.true_and, strobeOk_writeByteOps,
      strobeOk_rawNibbleOps]
  | line off x =>
    cases x with
    | none => rfl
    | some bs =>
      simp only [commandOps, lineOps, strobeOk, List.append_assoc, Bool.not_false, Bool.true_and, strobeOk_writeByteOps,
        strobeOk_bytes]
  | openBus | closeBus | wrreg | latch | rdreg | setbl f | getbl | setexcl f | getexcl | setaddr a | getaddr | setdev p
  | getdev | getstat => rfl

/-- What the strobe, the results, the environment and the responses satisfy in the course of a procedure. -/
structure RunFits (k : List Op) (w : Work) (s : State) : Prop where
  strobe : strobeOk s.img.e k = true
  result : resultFits s.cfg w.resp.result = true
  rd : resultFits s.cfg w.rd = true
  answers : answersFit s.cfg s.env = true
  responses : ∀ r ∈ s.responses, resultFits s.cfg r.result = true

/-- The same of a state, wherever its position is. -/
structure SeqFits (s : State) : Prop where
  running : ∀ w, s.seq = .running w → RunFits w.todo w s
  idle : s.seq = .idle → s.img.e = false
  answers : answersFit s.cfg s.env = true
  responses : ∀ r ∈ s.responses, resultFits s.cfg r.result = true

theorem seqFits_park {k : List Op} {w : Work} {s : State} (h : RunFits k w s) : SeqFits (s.park k w) where
  running := by
    intro w' hw
    cases hw
    exact ⟨h.strobe, h.result, h.rd, h.answers, h.responses⟩
  idle hs := nomatch hs
  answers := h.answers
  responses := h.responses

theorem delivered_result (r : Response) : r.delivered.result = r.result := by
  cases hr : r.result with
  | ok => rw [delivered_of_ok hr, hr]
  | err f => rw [delivered_of_err hr]; rfl

theorem seqFits_answered {w : Work} {s : State} (h : RunFits [] w s) : SeqFits (s.answered w.resp) where
  running _ hw := nomatch hw
  idle _ := by simpa [strobeOk] using h.strobe
  answers := h.answers
  responses := by
    intro r hr
    rw [State.answered_responses, List.mem_append, List.mem_singleton] at hr
    rcases hr with hr | rfl
    · exact h.responses r hr
    · rw [delivered_result]
      exact h.result

/-- A result that fits goes to its destination. -/
theorem RunFits.report {k : List Op} {w : Work} {s : State} (h : RunFits k w s) {r : Result}
    (hr : resultFits s.cfg r = true) (d : Dest) : RunFits k (w.report d r) s := by
  obtain ⟨hstrobe, hresult, hrd, hanswers, hresponses⟩ := h
  cases d with
  | discard => exact ⟨hstrobe, hresult, hrd, hanswers, hresponses⟩
  | result => exact ⟨hstrobe, acc_fits hresult hr, hrd, hanswers, hresponses⟩
  | read => exact ⟨hstrobe, hresult, acc_fits hrd hr, hanswers, hresponses⟩

theorem RunFits.memWrite {k : List Op} {w : Work} {s : State} (h : RunFits k w s) (d : Dest) :
    RunFits k (w.report d s.memWrite.1) s.memWrite.2 := by
  obtain ⟨hresult, hanswers⟩ := takeWrite_fits h.answers
  exact RunFits.report (s := s.memWrite.2) ⟨h.strobe, h.result, h.rd, hanswers, h.responses⟩ hresult d

theorem RunFits.memRead {k : List Op} {w : Work} {s : State} (h : RunFits k w s) (half : Half) :
    RunFits k (w.sampled s.cfg.layout half s.memRead.1) s.memRead.2 := by
  obtain ⟨hresult, hanswers⟩ := takeRead_fits h.answers
  have hs : RunFits k w s.memRead.2 := ⟨h.strobe, h.result, h.rd, hanswers, h.responses⟩
  rw [← memRead_fst] at hresult
  rcases ha : s.memRead.1 with v | c
  · cases half <;> exact ⟨hs.strobe, hs.result, hs.rd, hs.answers, hs.responses⟩
  · rw [ha] at hresult
    exact hs.report hresult .read

theorem RunFits.busOpen {k : List Op} {w : Work} {s s1 : State} (h : RunFits k w s) {n : List Byte} {r : Result}
    (hb : s.busOpen n = (r, s1)) : resultFits s1.cfg r = true ∧ RunFits k w s1 := by
  obtain ⟨hresult, hanswers⟩ := takeOpen_fits h.answers
  have hr : r = openResult (s.env.takeOpen s.cfg).1 := by rw [busOpen_eq] at hb; exact (congrArg Prod.fst hb).symm
  have hs1 : s1 = (s.busOpen n).2 := by rw [hb]
  subst hr hs1
  exact ⟨by simpa using hresult, by simpa using h.strobe, by simpa using h.result, by simpa using h.rd,
    by simpa using hanswers, by simpa using h.responses⟩

/-- A micro-operation that has been done leaves the rest of the list. -/
theorem RunFits.tail {k l : List Op} {w : Work} {s : State} (h : RunFits l w s) (hs : strobeOk s.img.e k = true) :
    RunFits k w s := ⟨hs, h.result, h.rd, h.answers, h.responses⟩

/-- A staged field leaves the strobe level the rest of the list expects. -/
theorem strobeOk_stage {g : Img} {f : Stage} {k : List Op} (h : strobeOk g.e (.stage f :: k) = true) :
    strobeOk (g.stage f).e k = true := by
  cases f with
  | e b => exact (Bool.and_eq_true_iff.1 h).2
  | rs b | rw b | bl b | d n => exact h

/-- Where a status read or an `open()` is next, the strobe is low. -/
theorem strobe_low {e : Bool} {k : List Op} (h : (!e && strobeOk false k) = true) : e = false ∧ strobeOk e k = true := by
  cases e with
  | false => exact ⟨rfl, h⟩
  | true => exact absurd h (by simp)

theorem seqFits_startRead {k : List Op} {w : Work} {s : State} (h : RunFits k w s) (he : s.img.e = false)
    (u : ReadUse) : SeqFits (startRead u k w s) := by
  have hread : ∀ s2 : State, s2.img.e = (if s.cfg.prewrite then s.img.e else true) → s2.cfg = s.cfg → s2.env = s.env →
      s2.responses = s.responses →
      RunFits (readTail s.cfg u ++ k) { w with rd := .ok, nh := 0#4, nl := 0#4 } s2 := by
    intro s2 he2 hc henv hresp
    refine ⟨?_, ?_, rfl, ?_, ?_⟩
    · rw [he2, strobeOk_readTail, ← he]
      exact h.strobe
    · rw [hc]; exact h.result
    · rw [hc, henv]; exact h.answers
    · rw [hc, hresp]; exact h.responses
  unfold startRead
  exact seqFits_park ((hread _ (by split <;> simp_all) (by split <;> rfl) (by split <;> rfl) (by split <;> rfl)).memWrite .read)

/-- One step of a procedure keeps what the strobe and the results satisfy. -/
theorem advance_fits (k : List Op) (w : Work) (s t : State) (hk : RunFits k w s) (h : advance k w s = .next t) :
    SeqFits t := by
  fun_induction advance k w s with
  | case1 w s => cases h; exact seqFits_answered hk
  | case2 f k w s ih => exact ih ⟨strobeOk_stage hk.strobe, hk.result, hk.rd, hk.answers, hk.responses⟩ h
  | case3 k w s ho ih => exact ih (hk.tail (strobe_low hk.strobe).2) h
  | case4 k w s ho hd =>
    cases h
    have hend : RunFits [] w s := hk.tail (by rw [(strobe_low hk.strobe).1]; rfl)
    exact seqFits_answered (hend.report (r := .err .deviceUnspecified) rfl .result)
  | case5 k w s ho n hd s1 hb =>
    cases h
    exact seqFits_park ((hk.tail (strobe_low hk.strobe).2).busOpen hb).2
  | case6 k w s ho n hd f s1 hb =>
    cases h
    have hend : RunFits [] w s := hk.tail (by rw [(strobe_low hk.strobe).1]; rfl)
    obtain ⟨hr, hs1⟩ := hend.busOpen hb
    exact seqFits_park (hs1.report hr .result)
  | case7 k w s hc =>
    cases h
    exact seqFits_park (s := s.busClose) ⟨hk.strobe, hk.result, hk.rd, hk.answers, hk.responses⟩
  | case8 k w s hc ih => exact ih (hk.tail (k := k) hk.strobe) h
  | case9 d k w s ho | case13 d k w s ho =>
    cases h
    exact seqFits_park (RunFits.memWrite (hk.tail (k := k) hk.strobe) d)
  | case10 d k w s ho hd ih => exact ih (RunFits.report (r := .err .deviceUnspecified) (hk.tail (k := k) hk.strobe) rfl d) h
  | case11 d k w s ho n hd s1 hb =>
    cases h
    have hs1 := (RunFits.busOpen (hk.tail (k := k) hk.strobe) hb).2
    exact seqFits_park (hs1.tail (l := k) hs1.strobe)
  | case12 d k w s ho n hd f s1 hb =>
    cases h
    obtain ⟨hr, hs1⟩ := RunFits.busOpen (hk.tail (k := k) hk.strobe) hb
    exact seqFits_park (hs1.report hr d)
  | case14 | case18 => cases h
  | case15 u k w s ho | case20 u k w s hrd hb ho =>
    cases h
    exact seqFits_startRead (hk.tail (strobe_low hk.strobe).2) (strobe_low hk.strobe).1 _
  | case16 u k w s ho ih =>
    exact ih (RunFits.report (r := .err .notConnected) (hk.tail (strobe_low hk.strobe).2) rfl .result) h
  | case17 half k w s ho =>
    cases h
    exact seqFits_park (RunFits.memRead (hk.tail (k := k) hk.strobe) half)
  | case19 u k w s f hrd ih =>
    have hf : resultFits s.cfg (.err f) = true := hrd ▸ hk.rd
    exact ih (RunFits.report (hk.tail (strobe_low hk.strobe).2) hf .result) h
  | case21 u k w s hrd hb ho ih =>
    exact ih (RunFits.report (r := .err .notConnected) (hk.tail (strobe_low hk.strobe).2) rfl .result) h
  | case22 u k w s hrd hb ih =>
    refine ih ⟨(strobe_low hk.strobe).2, ?_, ?_, hk.answers, hk.responses⟩ h
    · cases u <;> exact hk.result
    · cases u <;> exact hk.rd

/-! ### The invariant -/

/-- Position, strobe and results make up the invariant's clause on the sequencer. -/
theorem seqOk_of_fits {s : State} (hc : Connected s) (hf : SeqFits s) : seqOk s = true := by
  unfold seqOk
  cases hs : s.seq with
  | idle => simp [hf.idle hs]
  | running w =>
    obtain ⟨hstrobe, hresult, hrd, -, -⟩ := hf.running w hs
    simp [hc w hs, hstrobe, hresult, hrd]

theorem seqOk_running {s : State} {w : Work} (h : seqOk s = true) (hs : s.seq = .running w) :
    connectionOk s.isOpen w.todo = true ∧ strobeOk s.img.e w.todo = true ∧ resultFits s.cfg w.resp.result = true ∧
      resultFits s.cfg w.rd = true := by
  simpa [seqOk, hs, and_assoc] using h

theorem seqOk_idle {s : State} (h : seqOk s = true) (hs : s.seq = .idle) : s.img.e = false := by
  simpa [seqOk, hs] using h

theorem inv_connected {s : State} (h : Inv s) : Connected s := by
  obtain ⟨-, -, -, -, -, hseq⟩ := (inv_iff s).1 h
  exact fun w hw => (seqOk_running hseq hw).1

/-- Settles O13: the transfers of a running command find a connection, and an idle block always has a step. -/
theorem invariantStatesHaveANextStep : Obligations.InvariantStatesHaveANextStep := by
  intro s hinv
  cases hs : s.seq with
  | running w =>
    obtain ⟨t, ht, -⟩ := step_connected (inv_connected hinv) (by rw [hs]; exact Seq.noConfusion)
    exact ⟨t, ht⟩
  | idle =>
    unfold step
    split
    · exact ⟨_, rfl⟩
    · rw [hs]
      dsimp only
      split
      · exact ⟨_, rfl⟩
      · split
        · exact exec_accepts _ _
        · exact ⟨_, rfl⟩

/-- A step binds only the configured name. -/
theorem step_keeps_liveName {s t : State} (hdev : s.dev.nameLegal s.cfg = true)
    (hlive : s.isOpen = true → nameOk s.cfg s.ldev = true) (hreset : s.resetReq = false) (h : step s = .next t) :
    t.isOpen = true → nameOk s.cfg t.ldev = true := by
  obtain ⟨-, hkeep⟩ | ⟨e, -, hevent⟩ := step_event h
  · obtain ⟨hopen, hname, -⟩ := hkeep hreset
    rw [hopen, hname]
    exact hlive
  · cases hevent with
    | wrote x ho hopen hname haddr | sampled x ho hopen hname haddr =>
      rw [hname]
      exact fun _ => hlive ho
    | closed ho hx hopen hname haddr | refused name x hx ho hd hopen hname haddr =>
      rw [hopen]
      exact fun hf => nomatch hf
    | bound name ho hd hopen hname haddr =>
      rw [hname]
      rw [hd] at hdev
      exact fun _ => hdev

/-- A freshly accepted list of micro-operations fits its state. -/
theorem seqOk_fresh {k : List Op} {r : Response} {t : State} (hseq : t.seq = .running (Work.fresh k r))
    (hconn : connectionOk t.isOpen k = true) (hstrobe : strobeOk t.img.e k = true)
    (hr : r.result = .ok ∨ r.result = .err .invalidArgument) : seqOk t = true := by
  have hresult : resultFits t.cfg r.result = true := by rcases hr with hr | hr <;> rw [hr] <;> rfl
  have hrd : resultFits t.cfg .ok = true := rfl
  simp only [seqOk, hseq, Work.fresh, hconn, hstrobe, hresult, hrd, Bool.and_self]

/-- An accepted command has a legal name to store, if it stores one. -/
theorem accepted_nameLegal {c : Config} {p : PortCmd} {i : Instr} {s t : State} (hdev : s.dev.nameLegal c = true)
    (hd : decode c p = .ok i) (ha : Accepted i s t) : t.dev.nameLegal c = true := by
  rcases ha.dev with hsame | hset
  · rw [hsame]
    exact hdev
  · obtain ⟨-, hwf⟩ := decodableWordIsTheEncodingOfItsCommand c p i hd
    rw [hset] at hwf
    exact (Bool.and_eq_true_iff.1 hwf).2

/-- Settles O12: by the four kinds of step; a running command keeps its clauses by `advance_connected` and
`advance_fits`, an accepted one starts with a list that satisfies them. -/
theorem everyStepKeepsTheInvariant : Obligations.EveryStepKeepsTheInvariant := by
  intro s t hinv h
  obtain ⟨hlegal, hdev, hlive, hresp, hans, hseq⟩ := (inv_iff s).1 hinv
  cases step_kind h with
  | reset hr =>
    obtain ⟨hname, hstrobe⟩ := reset_legal hlegal
    have hseq' : seqOk s.resetEvent = true := by simp [seqOk, Img.ofByte, hstrobe]
    exact (inv_iff _).2 ⟨hlegal, hname, fun ho => Bool.noConfusion ho, hresp, hans, hseq'⟩
  | wait hr hs hh => exact hinv
  | run hr w hs g t he =>
    obtain ⟨hcfg, -, -, hdev', -, -⟩ := he.sameSettings
    have hname := step_keeps_liveName hdev hlive hr h
    rw [step_running hr hs] at h
    obtain ⟨hconn, hstrobe, hresult, hrd⟩ := seqOk_running hseq hs
    obtain ⟨t', ht', hc⟩ := advance_connected _ _ _ hconn
    rw [h] at ht'
    cases ht'
    have hf := advance_fits _ _ _ _ ⟨hstrobe, hresult, hrd, hans, hresp⟩ h
    exact (inv_iff t).2 ⟨by rw [hcfg]; exact hlegal, by rw [hcfg, hdev']; exact hdev, by rw [hcfg]; exact hname,
      hf.responses, hf.answers, seqOk_of_fits hc hf⟩
  | illegal hr hs p ps hh e hd =>
    have he : s.img.e = false := seqOk_idle hseq hs
    have hseq' : seqOk { s with host := ps }.acceptIllegal = true :=
      seqOk_fresh (k := []) rfl rfl (by simpa [strobeOk, State.acceptIllegal] using he) (.inr rfl)
    exact (inv_iff _).2 ⟨hlegal, hdev, hlive, hresp, hans, hseq'⟩
  | accept hr hs p ps hh i hd t ha =>
    have hexec := (stepRunsTheDecodedCommand s p ps i hr hs hh hd).symm.trans h
    obtain ⟨r, hrun, hresult⟩ := exec_running hexec
    have he : t.img.e = false := by rw [ha.img]; exact seqOk_idle hseq hs
    have hseq' : seqOk t = true :=
      seqOk_fresh hrun (connectionOk_commandOps _ _ _) (by rw [he]; exact strobeOk_commandOps _ _) hresult
    have hdev' : t.dev.nameLegal s.cfg = true := accepted_nameLegal (s := { s with host := ps }) hdev hd ha
    refine (inv_iff t).2 ⟨?_, ?_, ?_, ?_, ?_, hseq'⟩
    · rw [ha.cfg]; exact hlegal
    · rw [ha.cfg]; exact hdev'
    · rw [ha.cfg, ha.isOpen, ha.ldev]; exact hlive
    · rw [ha.cfg, ha.responses]; exact hresp
    · rw [ha.cfg, ha.env]; exact hans

/-! ### The strobe reaches the bus at once -/

/-- A step that changes the strobe sends it: to the live target, or after the `BusOpen` that has just been issued. -/
def StrobeSent (s t : State) : Prop :=
  (s.isOpen = true → ∃ x, t.trace = s.trace ++ [.wrote s.ldev s.laddr (t.img.byte t.cfg.layout) x]) ∧
    ∀ name, s.isOpen = false → s.dev = some name →
      ∃ a, t.trace = s.trace ++ [.opened name s.addr a] ∧
        (a = .ok → t.isOpen = true ∧ t.ldev = name ∧ t.laddr = s.addr ∧
          ∃ w d k, t.seq = .running w ∧ w.todo = .sendTransient d :: k)

/-- A `writeRegister()` that is next is what the step ends in. -/
theorem advance_writeReg_sent {d : Dest} {k : List Op} {w : Work} {s t : State}
    (h : advance (.writeReg d :: k) w s = .next t) : StrobeSent s t := by
  rw [advance] at h
  split at h
  · rename_i ho
    cases h
    exact ⟨fun _ => ⟨_, rfl⟩, fun name hc => absurd ho (by rw [hc]; decide)⟩
  · rename_i ho
    refine ⟨fun hc => absurd hc ho, fun name _ hd => ?_⟩
    rw [hd] at h
    dsimp only at h
    split at h
    · rename_i s1 hb
      cases h
      obtain ⟨ha, hs1⟩ := busOpen_ok hb
      rw [hs1]
      exact ⟨.ok, rfl, fun _ => ⟨rfl, rfl, rfl, _, d, _, rfl, rfl⟩⟩
    · rename_i f s1 hb
      cases h
      obtain ⟨ha, -, hs1⟩ := busOpen_err hb
      rw [hs1]
      exact ⟨_, rfl, fun hok => absurd hok ha⟩

/-- What starts with the same connection, name, trace and settings sends the strobe alike. -/
theorem StrobeSent.congr {s s' t : State} (h : StrobeSent s' t) (ho : s'.isOpen = s.isOpen) (hd : s'.dev = s.dev)
    (ha : s'.addr = s.addr) (hl : s'.ldev = s.ldev) (hla : s'.laddr = s.laddr) (ht : s'.trace = s.trace) :
    StrobeSent s t := by
  unfold StrobeSent at h ⊢
  rw [ho, hd, ha, hl, hla, ht] at h
  exact h

theorem writesNext_iff {k : List Op} : writesNext k = true ↔ ∃ d k', k = .writeReg d :: k' := by
  unfold writesNext
  split <;> simp_all

/-- Where the list obeys the strobe's rule, a step that changes the strobe sends it. -/
theorem advance_strobe (k : List Op) (w : Work) (s t : State) (hk : strobeOk s.img.e k = true)
    (h : advance k w s = .next t) (hne : t.img.e ≠ s.img.e) : StrobeSent s t := by
  fun_induction advance k w s with
  | case1 w s => cases h; exact absurd rfl hne
  | case2 f k w s ih =>
    cases f with
    | e b =>
      obtain ⟨hnext, -⟩ := Bool.and_eq_true_iff.1 hk
      obtain ⟨d, k', rfl⟩ := writesNext_iff.1 hnext
      exact StrobeSent.congr (advance_writeReg_sent h) rfl rfl rfl rfl rfl rfl
    | rs b | rw b | bl b | d n => exact (ih hk h hne).congr rfl rfl rfl rfl rfl rfl
  | case3 k w s ho ih | case16 u k w s ho ih | case19 u k w s f hrd ih | case21 u k w s hrd hb ho ih
  | case22 u k w s hrd hb ih => exact ih (strobe_low hk).2 h hne
  | case8 k w s hc ih | case10 d k w s ho hd ih => exact ih hk h hne
  | case4 | case7 | case17 => cases h; exact absurd rfl hne
  | case5 k w s ho n hd s1 hb | case6 k w s ho n hd f s1 hb | case11 d k w s ho n hd s1 hb
  | case12 d k w s ho n hd f s1 hb =>
    cases h
    have himg : s1.img = s.img := by rw [show s1 = (s.busOpen n).2 by rw [hb], busOpen_img]
    exact absurd (by rw [State.park_img, himg]) hne
  | case9 d k w s ho | case13 d k w s ho => cases h; exact absurd rfl hne
  | case14 | case18 => cases h
  | case15 u k w s ho | case20 u k w s hrd hb ho =>
    cases h
    exact ⟨fun _ => ⟨(s.env.takeWrite s.cfg).1, by rw [startRead_cfg, startRead_trace]⟩,
      fun name hc => absurd ho (by rw [hc]; decide)⟩

/-- The `MemWrite` of a `writeRegister()` that has just opened its connection. -/
theorem step_sendTransient {s : State} {w : Work} {d : Dest} {k : List Op} (hreset : s.resetReq = false)
    (hs : s.seq = .running w) (hw : w.todo = .sendTransient d :: k) (ho : s.isOpen = true) :
    step s = .next (s.memWrite.2.park k (w.report d s.memWrite.1)) := by
  rw [step_running hreset hs, hw, advance, if_pos ho]

/-- Only a running command changes the strobe, when no reset is due. -/
theorem running_of_strobe_changed {s t : State} (hreset : s.resetReq = false) (h : step s = .next t)
    (hne : t.img.e ≠ s.img.e) : ∃ w, s.seq = .running w := by
  cases step_kind h with
  | reset hr => exact absurd hr (by rw [hreset]; decide)
  | run hr w hs g t he => exact ⟨w, hs⟩
  | wait | illegal => exact absurd rfl hne
  | accept hr hs p ps hh i hd t ha => exact absurd (by rw [ha.img]) hne

/-- Settles O20: the list of micro-operations has the write right after each change of the strobe. -/
theorem strobeChangesAreWrittenAtOnce : Obligations.StrobeChangesAreWrittenAtOnce := by
  intro s t hinv hreset h hne
  obtain ⟨w, hs⟩ := running_of_strobe_changed hreset h hne
  obtain ⟨-, -, -, -, -, hseq⟩ := (inv_iff s).1 hinv
  obtain ⟨-, hstrobe, -, -⟩ := seqOk_running hseq hs
  have hadv := (step_running hreset hs).symm.trans h
  obtain ⟨hheld, hopening⟩ := advance_strobe _ _ _ _ hstrobe hadv hne
  refine ⟨hheld, fun ho hd => ?_, fun name ho hd => ?_⟩
  · obtain ⟨htrace, -⟩ | ⟨e, -, hevent⟩ := step_event h
    · exact htrace
    · cases hevent <;> simp_all
  · obtain ⟨a, htrace, hok⟩ := hopening name ho hd
    refine ⟨a, htrace, fun ha => ?_⟩
    obtain ⟨hto, hname, haddr, w', d, k, hseq', hw'⟩ := hok ha
    have hreset' : t.resetReq = false := (advance_sameSettings _ _ _ _ hadv).reset hreset
    refine ⟨_, (t.env.takeWrite t.cfg).1, step_sendTransient hreset' hseq' hw' hto, rfl, ?_⟩
    rw [State.park_trace, memWrite_trace, hname, haddr]

end Sys2Proof.Machine
end

section
/-! Every command runs its procedure, and returns only as its procedure does (the pseudocode of 40_bus_transport.md to
43_display_sequences.md), with a result that 60_exceptions.md R187 lists. -/

namespace Sys2Proof.Machine

/-! ### A procedure that returns is run -/

/-- A status read for a host leads to its answer. -/
theorem statusRead_leads {s : State} (hreset : s.resetReq = false) {u : ReadUse} (hu : u ≠ .poll) (w : Work) :
    ∃ w', LeadsTo [.readStart u] w s [] w' (procReadRegister s).2.2 ∧
      w'.resp = match (procReadRegister s).1 with
        | .ok => (w.statusRead u (procReadRegister s).2.1).resp
        | .err f => (w.addResult (.err f)).resp := by
  by_cases ho : s.isOpen = true
  · obtain ⟨nh, nl, hjoin, hlead⟩ := readStart_leads hreset ho u [] w
    rcases hp : procReadRegister s with ⟨_ | f, sr, s1⟩ <;> rw [hp] at hlead hjoin
    · refine ⟨_, LeadsTo.trans ⟨_, hlead⟩ (LeadsTo.quiet (advance_readEnd_ok rfl fun h => hu h.1)), ?_⟩
      dsimp only at hjoin ⊢
      rw [hjoin]
      cases u <;> rfl
    · exact ⟨_, LeadsTo.trans ⟨_, hlead⟩ (LeadsTo.quiet (advance_readEnd_err rfl)), rfl⟩
  · rw [procReadRegister_closed ho]
    exact ⟨_, LeadsTo.quiet (readStart_closed ho u [] w), rfl⟩

/-- The response of a command that has returned the result `r` and no value. -/
theorem fresh_sameAnswer {k : List Op} {r : Result} {w : Work}
    (h : SameAnswer ((Work.fresh k Response.plain).addResult r) w) : w.resp = Response.ofResult r :=
  h.trans (fresh_addResult_resp k r)

/-- `writeByte()` as a whole command. -/
theorem writeByte_run {fuel : Nat} {rs : Bool} {v : Byte} {s u : State} {r : Result} (hreset : s.resetReq = false)
    (h : procWriteByte fuel rs v s = some (r, u)) :
    ∃ n, drive n (s.accept (writeByteOps s.cfg rs v)) = .next (u.answered (Response.ofResult r)) := by
  obtain ⟨w', hw, hlead⟩ := writeByte_leads hreset h [] (Work.fresh (writeByteOps s.cfg rs v) Response.plain)
  rw [List.append_nil] at hlead
  rw [← fresh_sameAnswer hw]
  exact accept_finish hreset hlead

/-- `close()` at the end of a sequence. -/
theorem closeConn_end {s : State} (hreset : s.resetReq = false) (w : Work) :
    LeadsTo [.closeConn] w s [] w (procClose s) := closeConn_leads hreset [] w

/-- The micro-operations of `INIT` after its `open()`, as three runs of bytes. -/
theorem initOps_eq (c : Config) :
    initOps c = [c.opcFunc8].flatMap (writeByteOps c false) ++ (rawNibbleOps c c.nibTo4 ++
      ([c.opcFunc4, c.opcClear, c.opcHome, c.opcCursor].flatMap (writeByteOps c false) ++ [.closeConn])) := by
  simp [initOps]

/-- The micro-operations of `displayLine()` after its `open()`. -/
theorem lineOps_eq (c : Config) (off : Byte) (t : List Byte) :
    lineOps c off t = [setddaByte off].flatMap (writeByteOps c false) ++
      ((lineChars t).flatMap (writeByteOps c true) ++ [.closeConn]) := by
  simp [lineOps]

/-- The six steps of `INIT`, up to the `close()`. -/
theorem initSteps_leads {fuel : Nat} {s u : State} {r : Result} (hreset : s.resetReq = false)
    (h : procInitSteps fuel s = some (r, u)) (w : Work) (hw : w.resp.result = .ok) :
    ∃ w', w'.resp = { w.resp with result := r } ∧ LeadsTo (initOps s.cfg) w s [.closeConn] w' u := by
  unfold procInitSteps at h
  rcases h1 : procBytes fuel false [s.cfg.opcFunc8] (.ok, s) with _ | ⟨r1, s1⟩ <;> rw [h1] at h <;> dsimp only at h
  · cases h
  · have hs1 : sameSettings s s1 := procBytes_settings h1
    have hs2 := procRawNibble_settings s.cfg.nibTo4 s1
    obtain ⟨w1, hw1, hlead1⟩ := bytes_leads hreset h1 (rawNibbleOps s.cfg s.cfg.nibTo4 ++
      ([s.cfg.opcFunc4, s.cfg.opcClear, s.cfg.opcHome, s.cfg.opcCursor].flatMap (writeByteOps s.cfg false) ++ [.closeConn]))
      w hw
    have hlead2 := rawNibble_leads (hs1.reset hreset) s.cfg.nibTo4
      ([s.cfg.opcFunc4, s.cfg.opcClear, s.cfg.opcHome, s.cfg.opcCursor].flatMap (writeByteOps s.cfg false) ++ [.closeConn]) w1
    obtain ⟨w3, hw3, hlead3⟩ := bytes_leads (hs2.reset (hs1.reset hreset)) h [.closeConn]
      (w1.addResult (procRawNibble s.cfg.nibTo4 s1).1) (by rw [Work.addResult_resp, hw1])
    rw [hs1.1] at hlead2
    rw [hs2.1, hs1.1] at hlead3
    rw [initOps_eq]
    exact ⟨w3, by rw [hw3, Work.addResult_resp, hw1], hlead1.trans (hlead2.trans hlead3)⟩

/-- The bytes of `displayLine()`, up to the `close()`. -/
theorem lineBytes_leads {fuel : Nat} {off : Byte} {t : List Byte} {s u : State} {r : Result} (hreset : s.resetReq = false)
    (h : procLineBytes fuel off t s = some (r, u)) (w : Work) (hw : w.resp.result = .ok) :
    ∃ w', w'.resp = { w.resp with result := r } ∧ LeadsTo (lineOps s.cfg off t) w s [.closeConn] w' u := by
  unfold procLineBytes at h
  rcases h1 : procBytes fuel false [setddaByte off] (.ok, s) with _ | ⟨r1, s1⟩ <;> rw [h1] at h <;> dsimp only at h
  · cases h
  · have hs1 : sameSettings s s1 := procBytes_settings h1
    obtain ⟨w1, hw1, hlead1⟩ := bytes_leads hreset h1 ((lineChars t).flatMap (writeByteOps s.cfg true) ++ [.closeConn]) w hw
    obtain ⟨w2, hw2, hlead2⟩ := bytes_leads (hs1.reset hreset) h [.closeConn] w1 (by rw [hw1])
    rw [hs1.1] at hlead2
    rw [lineOps_eq]
    exact ⟨w2, by rw [hw2, hw1], hlead1.trans hlead2⟩

/-- A sequence, from its `open()` to its `close()`: `steps` is what lies between. -/
def procSequence (steps : State → Option (Result × State)) (s : State) : Option (Result × State) :=
  match procOpen s with
  | (.err f, s1) => some (.err f, s1)
  | (.ok, s1) => (steps s1).map fun p => (p.1, procClose p.2)

theorem procInitialize_eq (fuel : Nat) (s : State) : procInitialize fuel s = procSequence (procInitSteps fuel) s := rfl

theorem procDisplayLine_eq (fuel : Nat) (off : Byte) (bs : List Byte) (s : State) :
    procDisplayLine fuel off (some bs) s = procSequence (procLineBytes fuel off bs) s := rfl

theorem procOpen_cfg {s s1 : State} {r : Result} (h : procOpen s = (r, s1)) : sameSettings s s1 := by
  have hs := procOpen_settings s
  rw [h] at hs
  exact hs

/-- A sequence whose steps lead to its `close()` is run. -/
theorem sequence_run {ops : List Op} {steps : State → Option (Result × State)} {s u : State} {r : Result}
    (hreset : s.resetReq = false) (h : procSequence steps s = some (r, u))
    (hsteps : ∀ s1 u1 r1 w, sameSettings s s1 → steps s1 = some (r1, u1) → w.resp.result = .ok →
      sameSettings s1 u1 ∧ ∃ w', w'.resp = { w.resp with result := r1 } ∧ LeadsTo ops w s1 [.closeConn] w' u1) :
    ∃ n, drive n (s.accept (.openConn :: ops)) = .next (u.answered (Response.ofResult r)) := by
  unfold procSequence at h
  rcases hopen : procOpen s with ⟨_ | f, s1⟩ <;> rw [hopen] at h <;> dsimp only at h
  · have hs := procOpen_cfg hopen
    have hopened := (openConn_within_ok hreset hopen ops (Work.fresh (.openConn :: ops) Response.plain)).leadsTo
    rcases hp : steps s1 with _ | ⟨r1, u1⟩ <;> rw [hp] at h
    · cases h
    · cases h
      obtain ⟨hu, w', hw', hlead⟩ := hsteps s1 u1 r1 (Work.fresh (.openConn :: ops) Response.plain) hs hp rfl
      have hend := closeConn_end (hu.reset (hs.reset hreset)) w'
      have hresp : w'.resp = Response.ofResult r1 := hw'
      rw [← hresp]
      exact accept_finish hreset (hopened.trans (hlead.trans hend))
  · cases h
    have hend := (openConn_within_err hreset hopen ops (Work.fresh (.openConn :: ops) Response.plain)).leadsTo
    rw [← fresh_addResult_resp (.openConn :: ops)]
    exact accept_finish hreset hend

theorem procInitSteps_settings {fuel : Nat} {s u : State} {r : Result} (h : procInitSteps fuel s = some (r, u)) :
    sameSettings s u := by
  unfold procInitSteps at h
  rcases h1 : procBytes fuel false [s.cfg.opcFunc8] (.ok, s) with _ | ⟨r1, s1⟩ <;> rw [h1] at h <;> dsimp only at h
  · cases h
  · exact sameSettings_trans (procBytes_settings h1)
      (sameSettings_trans (procRawNibble_settings _ s1) (procBytes_settings h))

theorem procLineBytes_settings {fuel : Nat} {off : Byte} {t : List Byte} {s u : State} {r : Result}
    (h : procLineBytes fuel off t s = some (r, u)) : sameSettings s u := by
  unfold procLineBytes at h
  rcases h1 : procBytes fuel false [setddaByte off] (.ok, s) with _ | ⟨r1, s1⟩ <;> rw [h1] at h <;> dsimp only at h
  · cases h
  · exact sameSettings_trans (procBytes_settings h1) (procBytes_settings h)

theorem init_run {fuel : Nat} {s u : State} {r : Result} (hreset : s.resetReq = false)
    (h : procInitialize fuel s = some (r, u)) :
    ∃ n, drive n (s.accept (.openConn :: initOps s.cfg)) = .next (u.answered (Response.ofResult r)) := by
  refine sequence_run hreset h fun s1 u1 r1 w hs hp hw => ⟨procInitSteps_settings hp, ?_⟩
  rw [← hs.1]
  exact initSteps_leads (hs.reset hreset) hp w hw

theorem line_run {fuel : Nat} {off : Byte} {t : List Byte} {s u : State} {r : Result} (hreset : s.resetReq = false)
    (h : procDisplayLine fuel off (some t) s = some (r, u)) :
    ∃ n, drive n (s.accept (.openConn :: lineOps s.cfg off t)) = .next (u.answered (Response.ofResult r)) := by
  refine sequence_run hreset h fun s1 u1 r1 w hs hp hw => ⟨procLineBytes_settings hp, ?_⟩
  rw [← hs.1]
  exact lineBytes_leads (hs.reset hreset) hp w hw

/-- A command that answers a status read: `RDREG` with the byte, `GETSTAT` with the byte decoded. -/
theorem statusCommand_run {s u : State} {r : Response} (hreset : s.resetReq = false) {use : ReadUse} (huse : use ≠ .poll)
    (value : Byte → Response)
    (hvalue : ∀ k sr, ((Work.fresh k Response.plain).statusRead use sr).resp = value sr)
    (h : (match procReadRegister s with
      | (.ok, sr, s1) => some (value sr, s1)
      | (.err f, _, s1) => some (Response.failed f, s1)) = some (r, u)) :
    ∃ n, drive n (s.accept [.readStart use]) = .next (u.answered r) := by
  obtain ⟨w', hlead, hw'⟩ := statusRead_leads hreset huse (Work.fresh [.readStart use] Response.plain)
  obtain ⟨n, hn⟩ := accept_finish hreset hlead
  refine ⟨n, hn.trans (congrArg _ ?_)⟩
  rcases hp : procReadRegister s with ⟨_ | f, sr, s1⟩ <;> rw [hp] at h hw' <;> cases h
  · rw [hw', hvalue]
  · rw [hw']
    rfl

/-- A command that returns only a result, as a case of the table of commands. -/
theorem plainly_eq {p : Option (Result × State)} {r : Response} {u : State} (h : p.map plainly = some (r, u)) :
    ∃ q, p = some (q, u) ∧ r = Response.ofResult q := by
  rcases p with _ | ⟨q, u'⟩
  · cases h
  · cases h
    exact ⟨q, rfl, rfl⟩

/-- A byte command runs `writeByte()` of its byte. -/
theorem byteCommand_run {i : Instr} {fuel : Nat} {rs : Bool} {v : Byte} {s u : State} {r : Response}
    (hreset : s.resetReq = false) (hexec : exec i s = .next (s.accept (writeByteOps s.cfg rs v)))
    (h : (procWriteByte fuel rs v s).map plainly = some (r, u)) :
    ∃ t, exec i s = .next t ∧ ∃ n, drive n t = .next (u.answered r) := by
  obtain ⟨q, hq, rfl⟩ := plainly_eq h
  exact ⟨_, hexec, writeByte_run hreset hq⟩

/-- Settles O22: each command's list of micro-operations leads to its end with the procedure's state and result. -/
theorem sequencerRunsTheProcedure : Obligations.SequencerRunsTheProcedure := by
  intro i s fuel r u hreset h
  cases i with
  | openBus => cases h; exact (openBus_run hreset).imp fun t ht => ⟨ht.1, 2, ht.2⟩
  | closeBus => cases h; exact (closeBus_run hreset).imp fun t ht => ⟨ht.1, 2, ht.2⟩
  | wrreg => cases h; exact (wrreg_run hreset).imp fun t ht => ⟨ht.1, 4, ht.2⟩
  | latch => cases h; exact (latch_run hreset).imp fun t ht => ⟨ht.1, 7, ht.2⟩
  | setbl f => cases h; exact (setbl_run hreset f).imp fun t ht => ⟨ht.1, 4, ht.2⟩
  | rdreg => exact ⟨_, rfl, statusCommand_run hreset (by decide) Response.value (fun _ _ => rfl) h⟩
  | getstat => exact ⟨_, rfl, statusCommand_run hreset (by decide) Response.status (fun _ _ => rfl) h⟩
  | getbl | getexcl | getaddr | getdev => cases h; exact ⟨_, rfl, 1, drive_acceptWith hreset _ 0⟩
  | setexcl f => cases h; exact ⟨_, rfl, 1, drive_acceptWith (s := { s with excl := f }) hreset _ 0⟩
  | setaddr a => cases h; exact ⟨_, rfl, 1, drive_acceptWith (s := { s with addr := a }) hreset _ 0⟩
  | setdev p => cases h; exact ⟨_, rfl, 1, drive_acceptWith (s := { s with dev := p }) hreset _ 0⟩
  | wrbyte rs v => exact byteCommand_run hreset rfl h
  | clear | home | cursmode => exact byteCommand_run hreset rfl h
  | setdda off => exact byteCommand_run hreset rfl h
  | init =>
    obtain ⟨q, hq, rfl⟩ := plainly_eq h
    exact ⟨_, rfl, init_run hreset hq⟩
  | line off t =>
    obtain ⟨q, hq, rfl⟩ := plainly_eq h
    cases t with
    | none => cases hq; exact ⟨_, rfl, 1, drive_acceptWith hreset _ 0⟩
    | some bs => exact ⟨_, rfl, line_run hreset hq⟩

/-! ### More polls do not change what a procedure returns -/

theorem procPoll_mono {fuel more : Nat} (hle : fuel ≤ more) {s : State} {p : Result × State}
    (h : procPoll fuel s = some p) : procPoll more s = some p := by
  induction fuel generalizing more s with
  | zero => cases h
  | succ fuel ih =>
    obtain ⟨more, rfl⟩ : ∃ m, more = m + 1 := ⟨more - 1, by omega⟩
    rw [procPoll] at h ⊢
    rcases hp : procReadRegister s with ⟨_ | f, sr, s1⟩ <;> rw [hp] at h <;> dsimp only at h ⊢
    · split at h
      · rename_i hb
        rw [if_pos hb]
        exact ih (by omega) h
      · rename_i hb
        rw [if_neg hb]
        exact h
    · exact h

theorem procWriteByte_mono {fuel more : Nat} (hle : fuel ≤ more) {rs : Bool} {v : Byte} {s : State} {p : Result × State}
    (h : procWriteByte fuel rs v s = some p) : procWriteByte more rs v s = some p := procPoll_mono hle h

theorem procBytes_mono {fuel more : Nat} (hle : fuel ≤ more) {rs : Bool} {vs : List Byte} {q p : Result × State}
    (h : procBytes fuel rs vs q = some p) : procBytes more rs vs q = some p := by
  induction vs generalizing q with
  | nil => exact h
  | cons v vs ih =>
    rw [procBytes] at h ⊢
    rcases hq : procWriteByte fuel rs v q.2 with _ | q1 <;> rw [hq] at h <;> dsimp only at h
    · cases h
    · rw [procWriteByte_mono hle hq]
      exact ih h

/-! ### A run that ends is a procedure that returns -/

/-- The run from an outcome is idle within `n` more steps. -/
def Idles (n : Nat) (o : Host.Outcome State Fault Refusal) : Prop := ∃ v, thenDrive n o = .next v ∧ v.seq = .idle

/-- A run that is idle stays so. -/
theorem Idles.more {n : Nat} {o : Host.Outcome State Fault Refusal} (h : Idles n o) (m : Nat) : Idles (n + m) o := by
  obtain ⟨v, hv, hidle⟩ := h
  cases o with
  | next t => exact ⟨v, by rw [thenDrive, drive_add hv, drive_idle hidle], hidle⟩
  | fault f => cases hv
  | refused r => cases hv

/-- A run that ends, ends from every point it leads to, in as many steps fewer. -/
theorem Idles.leads {n c : Nat} {k k' : List Op} {w w' : Work} {s s' : State} (h : Idles n (advance k w s))
    (hlead : Leads c k w s k' w' s') : Idles (n - c) (advance k' w' s') := by
  obtain ⟨v, hv, hidle⟩ := h.more (c - n)
  have hn : n + (c - n) = n - c + c := by omega
  rw [hn, hlead] at hv
  exact ⟨v, hv, hidle⟩

theorem Idles.leadsTo {n : Nat} {k k' : List Op} {w w' : Work} {s s' : State} (h : Idles n (advance k w s))
    (hlead : LeadsTo k w s k' w' s') : Idles n (advance k' w' s') := by
  obtain ⟨c, hc⟩ := hlead
  have hless := (h.leads hc).more (n - (n - c))
  rwa [show n - c + (n - (n - c)) = n by omega] at hless

theorem procReadRegister_open {s : State} (ho : s.isOpen = true) : (procReadRegister s).2.2.isOpen = true := by
  unfold procReadRegister
  rw [if_pos ho]
  exact procReadNibble_open (procReadNibble_open ho)

/-- A busy-poll whose run ends returns: each busy status read takes steps of the run. -/
theorem poll_returns (n : Nat) {s : State} (hreset : s.resetReq = false) {k : List Op} {w : Work}
    (h : Idles n (advance (.readStart .poll :: k) w s)) : ∃ fuel p, procPoll fuel s = some p := by
  induction n using Nat.strongRecOn generalizing s w with
  | ind n ih =>
    rcases hp : procReadRegister s with ⟨_ | f, sr, s1⟩
    · by_cases hb : busyOf sr = true
      · have ho : s.isOpen = true := by
          refine Decidable.byContradiction fun hclosed => ?_
          rw [procReadRegister_closed hclosed] at hp
          cases hp
        obtain ⟨nh, nl, hjoin, hlead⟩ := readStart_leads hreset ho .poll k w
        have hs := procReadRegister_settings s
        have ho1 := procReadRegister_open ho
        rw [hp] at hjoin hlead hs ho1
        have hnext := h.leads hlead
        rw [readEnd_again rfl (by rw [hjoin]; exact hb)] at hnext
        cases n with
        | zero =>
          rw [advance, if_pos ho] at h
          obtain ⟨v, hv, hidle⟩ := h
          cases hv
          cases hidle
        | succ n =>
          obtain ⟨fuel, p, hfuel⟩ := ih _ (by omega) (hs.reset hreset) hnext
          exact ⟨fuel + 1, p, by rw [procPoll, hp]; dsimp only; rw [if_pos hb]; exact hfuel⟩
      · exact ⟨1, (.ok, s1), by rw [procPoll, hp]; dsimp only; rw [if_neg hb]⟩
    · exact ⟨1, (.err f, s1), by rw [procPoll, hp]⟩

theorem writeByte_returns {n : Nat} {rs : Bool} {v : Byte} {s : State} (hreset : s.resetReq = false) {k : List Op}
    {w : Work} (h : Idles n (advance (writeByteOps s.cfg rs v ++ k) w s)) :
    ∃ fuel p, procWriteByte fuel rs v s = some p :=
  poll_returns n ((procTwoLatches_settings rs v s).reset hreset) (h.leadsTo (twoLatches_leads hreset rs v k w))

theorem bytes_returns {n : Nat} {rs : Bool} {vs : List Byte} {s : State} {r : Result} (hreset : s.resetReq = false)
    {k : List Op} {w : Work} (h : Idles n (advance (vs.flatMap (writeByteOps s.cfg rs) ++ k) w s)) :
    ∃ fuel p, procBytes fuel rs vs (r, s) = some p := by
  induction vs generalizing s r w with
  | nil => exact ⟨0, _, rfl⟩
  | cons v vs ih =>
    rw [List.flatMap_cons, List.append_assoc] at h
    obtain ⟨fuel, ⟨q, s1⟩, hq⟩ := writeByte_returns hreset h
    have hs := procWriteByte_settings hq
    obtain ⟨w1, -, hlead⟩ := writeByte_leads hreset hq (vs.flatMap (writeByteOps s.cfg rs) ++ k) w
    have hrest := h.leadsTo hlead
    rw [← hs.1] at hrest
    obtain ⟨fuel', p, hp⟩ := ih (r := acc r q) (hs.reset hreset) hrest
    refine ⟨fuel + fuel', p, ?_⟩
    rw [procBytes, procWriteByte_mono (Nat.le_add_right fuel fuel') hq]
    exact procBytes_mono (Nat.le_add_left fuel' fuel) hp

/-- The steps of `INIT` put together, whatever number of polls each run of bytes needs. -/
theorem procInitSteps_of_bytes {f1 f2 : Nat} {s s1 : State} {r1 : Result} {p : Result × State}
    (h1 : procBytes f1 false [s.cfg.opcFunc8] (.ok, s) = some (r1, s1))
    (h2 : procBytes f2 false [s.cfg.opcFunc4, s.cfg.opcClear, s.cfg.opcHome, s.cfg.opcCursor]
      (acc r1 (procRawNibble s.cfg.nibTo4 s1).1, (procRawNibble s.cfg.nibTo4 s1).2) = some p) :
    procInitSteps (f1 + f2) s = some p := by
  rw [procInitSteps, procBytes_mono (Nat.le_add_right f1 f2) h1]
  exact procBytes_mono (Nat.le_add_left f2 f1) h2

/-- The bytes of `displayLine()` put together. -/
theorem procLineBytes_of_bytes {f1 f2 : Nat} {off : Byte} {t : List Byte} {s : State} {q p : Result × State}
    (h1 : procBytes f1 false [setddaByte off] (.ok, s) = some q) (h2 : procBytes f2 true (lineChars t) q = some p) :
    procLineBytes (f1 + f2) off t s = some p := by
  rw [procLineBytes, procBytes_mono (Nat.le_add_right f1 f2) h1]
  exact procBytes_mono (Nat.le_add_left f2 f1) h2

theorem initSteps_returns {n : Nat} {s : State} (hreset : s.resetReq = false) {w : Work} (hw : w.resp.result = .ok)
    (h : Idles n (advance (initOps s.cfg) w s)) : ∃ fuel p, procInitSteps fuel s = some p := by
  rw [initOps_eq] at h
  obtain ⟨fuel, ⟨r1, s1⟩, h1⟩ := bytes_returns (r := .ok) hreset h
  have hs1 : sameSettings s s1 := procBytes_settings h1
  obtain ⟨w1, -, hlead1⟩ := bytes_leads hreset h1 _ w hw
  have hlead2 := rawNibble_leads (hs1.reset hreset) s.cfg.nibTo4
    ([s.cfg.opcFunc4, s.cfg.opcClear, s.cfg.opcHome, s.cfg.opcCursor].flatMap (writeByteOps s.cfg false) ++ [.closeConn]) w1
  rw [hs1.1] at hlead2
  have hs2 := sameSettings_trans hs1 (procRawNibble_settings s.cfg.nibTo4 s1)
  obtain ⟨fuel', p, hp⟩ := bytes_returns (r := acc r1 (procRawNibble s.cfg.nibTo4 s1).1) (hs2.reset hreset)
    (by rw [hs2.1]; exact (h.leadsTo hlead1).leadsTo hlead2)
  exact ⟨fuel + fuel', p, procInitSteps_of_bytes h1 hp⟩

theorem lineBytes_returns {n : Nat} {off : Byte} {t : List Byte} {s : State} (hreset : s.resetReq = false) {w : Work}
    (hw : w.resp.result = .ok) (h : Idles n (advance (lineOps s.cfg off t) w s)) :
    ∃ fuel p, procLineBytes fuel off t s = some p := by
  rw [lineOps_eq] at h
  obtain ⟨fuel, ⟨r1, s1⟩, h1⟩ := bytes_returns (r := .ok) hreset h
  have hs1 : sameSettings s s1 := procBytes_settings h1
  obtain ⟨w1, -, hlead1⟩ := bytes_leads hreset h1 _ w hw
  have hrest1 := h.leadsTo hlead1
  rw [← hs1.1] at hrest1
  obtain ⟨fuel', p, hp⟩ := bytes_returns (r := r1) (hs1.reset hreset) hrest1
  exact ⟨fuel + fuel', p, procLineBytes_of_bytes h1 hp⟩

/-- A sequence whose run ends returns, if its steps do. -/
theorem sequence_returns {n : Nat} {ops : List Op} {steps : Nat → State → Option (Result × State)} {s : State}
    (hreset : s.resetReq = false)
    (h : Idles n (advance (.openConn :: ops) (Work.fresh (.openConn :: ops) Response.plain) s))
    (hsteps : ∀ s1 w, sameSettings s s1 → w.resp.result = .ok → Idles n (advance ops w s1) →
      ∃ fuel p, steps fuel s1 = some p) : ∃ fuel p, procSequence (steps fuel) s = some p := by
  rcases hopen : procOpen s with ⟨_ | f, s1⟩
  · have hlead := (openConn_within_ok hreset hopen ops (Work.fresh (.openConn :: ops) Response.plain)).leadsTo
    obtain ⟨fuel, p, hp⟩ := hsteps s1 _ (procOpen_cfg hopen) rfl (h.leadsTo hlead)
    exact ⟨fuel, _, by rw [procSequence, hopen]; dsimp only; rw [hp]; rfl⟩
  · exact ⟨0, _, by rw [procSequence, hopen]⟩

/-- From an accepted list of micro-operations on, a run that is idle has gone through its first step. -/
theorem idles_of_accept {s v : State} {k : List Op} {n : Nat} (hreset : s.resetReq = false)
    (h : drive n (s.accept k) = .next v) (hidle : v.seq = .idle) :
    Idles n (advance k (Work.fresh k Response.plain) s) := by
  cases n with
  | zero => cases h; cases hidle
  | succ n =>
    rw [drive_accept hreset] at h
    exact Idles.more ⟨v, h, hidle⟩ 1

/-- A command whose run ends has a procedure that returns. -/
theorem procCommand_returns {i : Instr} {s t v : State} {n : Nat} (hreset : s.resetReq = false)
    (hexec : exec i s = .next t) (hrun : drive n t = .next v) (hidle : v.seq = .idle) :
    ∃ fuel p, procCommand fuel i s = some p := by
  have byteCommand : ∀ {rs x}, drive n (s.accept (writeByteOps s.cfg rs x)) = .next v →
      ∃ fuel p, (procWriteByte fuel rs x s).map plainly = some p := by
    intro rs x hrun
    have hends := idles_of_accept hreset hrun hidle
    rw [← List.append_nil (writeByteOps s.cfg rs x)] at hends
    obtain ⟨fuel, p, hp⟩ := writeByte_returns hreset hends
    exact ⟨fuel, _, by rw [hp]; rfl⟩
  cases i with
  | openBus | closeBus | wrreg | latch | setbl f | getbl | setexcl f | getexcl | setaddr a | getaddr | setdev p | getdev =>
    exact ⟨0, _, rfl⟩
  | rdreg | getstat =>
    dsimp only [procCommand]
    rcases procReadRegister s with ⟨_ | f, sr, s1⟩ <;> exact ⟨0, _, rfl⟩
  | wrbyte rs x | clear | home | setdda off | cursmode => cases hexec; exact byteCommand hrun
  | init =>
    cases hexec
    obtain ⟨fuel, p, hp⟩ := sequence_returns (steps := procInitSteps) hreset (idles_of_accept hreset hrun hidle)
      fun s1 w hs hw h => initSteps_returns (hs.reset hreset) hw (by rw [hs.1]; exact h)
    exact ⟨fuel, _, by rw [procCommand, procInitialize_eq, hp]; rfl⟩
  | line off x =>
    cases x with
    | none => exact ⟨0, _, rfl⟩
    | some bs =>
      cases hexec
      obtain ⟨fuel, p, hp⟩ := sequence_returns (steps := fun fuel => procLineBytes fuel off bs) hreset
        (idles_of_accept hreset hrun hidle)
        fun s1 w hs hw h => lineBytes_returns (hs.reset hreset) hw (by rw [hs.1]; exact h)
      exact ⟨fuel, _, by rw [procCommand, procDisplayLine_eq, hp]; rfl⟩

/-- Settles O23: the procedure returns, the sequencer then ends in the procedure's state (O22), and a run has one idle
state. -/
theorem sequencerReturnsOnlyAsTheProcedure : Obligations.SequencerReturnsOnlyAsTheProcedure := by
  intro i s t v n hreset hexec hrun hidle
  obtain ⟨fuel, ⟨r, u⟩, hp⟩ := procCommand_returns hreset hexec hrun hidle
  obtain ⟨t', hexec', m, hrun'⟩ := sequencerRunsTheProcedure i s fuel r u hreset hp
  rw [hexec] at hexec'
  cases hexec'
  exact ⟨fuel, r, u, hp, drive_idle_unique hrun hrun' hidle rfl⟩

end Sys2Proof.Machine
end

section
/-! The results that the procedures return (60_exceptions.md R187). -/

namespace Sys2Proof.Machine

/-! ### Results of transfers -/

/-- Results of a procedure that finds a connection held: `OK` or `IoFailure`. -/
def ioResultOk : Result → Bool
  | .ok | .err (.ioFailure _) => true
  | .err .invalidArgument | .err .deviceUnspecified | .err .addressingFailure | .err .notConnected | .err .busy => false

theorem ioResultOk_iff {r : Result} : ioResultOk r = true ↔ r = .ok ∨ ∃ c, r = .err (.ioFailure c) := by
  unfold ioResultOk
  split <;> simp

theorem writeResultOk_of_io {r : Result} (h : ioResultOk r = true) : writeResultOk r = true := by
  obtain rfl | ⟨c, rfl⟩ := ioResultOk_iff.1 h <;> rfl

theorem statusResultOk_of_io {r : Result} (h : ioResultOk r = true) : statusResultOk r = true := by
  obtain rfl | ⟨c, rfl⟩ := ioResultOk_iff.1 h <;> rfl

/-- A property of results that `OK` and the last failure keep. -/
theorem acc_keeps {P : Result → Bool} {r s : Result} (hr : P r = true) (hs : P s = true) : P (acc r s) = true := by
  cases s with
  | ok => exact hr
  | err f => exact hs

theorem memWrite_io (s : State) : ioResultOk s.memWrite.1 = true := by
  rw [memWrite_fst]
  cases (s.env.takeWrite s.cfg).1 <;> rfl

theorem procOpen_result (s : State) : writeResultOk (procOpen s).1 = true := by
  unfold procOpen
  split
  · rfl
  · split
    · rfl
    · rw [busOpen_eq]
      cases (s.env.takeOpen s.cfg).1 <;> rfl

theorem procWriteRegister_result (s : State) : writeResultOk (procWriteRegister s).1 = true := by
  have hopen := procOpen_result s
  unfold procWriteRegister
  split
  · exact writeResultOk_of_io (memWrite_io s)
  · split
    · rename_i h
      rw [h] at hopen
      exact hopen
    · exact writeResultOk_of_io (memWrite_io _)

theorem procLatch_result (s : State) : writeResultOk (procLatch s).1 = true :=
  acc_keeps (procWriteRegister_result _) (procWriteRegister_result _)

/-! ### Procedures in a held connection -/

/-- What a procedure returns that finds a connection held: it is still held, and the result is that of transfers. -/
structure HeldIo (r : Result) (s : State) : Prop where
  result : ioResultOk r = true
  isOpen : s.isOpen = true

theorem procWriteRegister_held {s : State} (ho : s.isOpen = true) :
    HeldIo (procWriteRegister s).1 (procWriteRegister s).2 := by
  rw [procWriteRegister_open ho]
  exact ⟨memWrite_io s, ho⟩

theorem procLatch_held {s : State} (ho : s.isOpen = true) : HeldIo (procLatch s).1 (procLatch s).2 := by
  have h1 := procWriteRegister_held (s := s.stage (.e true)) ho
  have h2 := procWriteRegister_held (s := (procWriteRegister (s.stage (.e true))).2.stage (.e false)) h1.isOpen
  exact ⟨acc_keeps h1.result h2.result, h2.isOpen⟩

theorem procStageNibble_held {s : State} (ho : s.isOpen = true) (n : Nibble) : (procStageNibble n s).isOpen = true := by
  unfold procStageNibble
  split
  · exact (procWriteRegister_held (s := s.stage (.d n)) ho).isOpen
  · exact ho

theorem procTwoLatches_held {s : State} (ho : s.isOpen = true) (rs : Bool) (v : Byte) :
    (procTwoLatches rs v s).isOpen = true := by
  have h1 := procStageNibble_held (s := (s.stage (.rs rs)).stage (.rw false)) ho (highNibble v)
  exact (procLatch_held (procStageNibble_held (procLatch_held h1).isOpen (lowNibble v))).isOpen

theorem procRawNibble_held {s : State} (ho : s.isOpen = true) (n : Nibble) :
    HeldIo (procRawNibble n s).1 (procRawNibble n s).2 :=
  procLatch_held (procStageNibble_held (s := (s.stage (.rs false)).stage (.rw false)) ho n)

theorem procPrewrite_io {r : Result} {s : State} (hr : ioResultOk r = true) (ho : s.isOpen = true) :
    ioResultOk (procPrewrite r s).1 = true := by
  unfold procPrewrite
  split
  · exact acc_keeps hr (procWriteRegister_held ho).result
  · exact hr

theorem procReadNibble_io {r : Result} {s : State} (hr : ioResultOk r = true) (ho : s.isOpen = true) :
    ioResultOk (procReadNibble r s).1 = true := by
  have hp := procPrewrite_io (s := s.stage (.d 0xF#4)) hr ho
  have hpo := procPrewrite_open (r := r) (s := s.stage (.d 0xF#4)) ho
  have hh := procWriteRegister_held (s := (procPrewrite r (s.stage (.d 0xF#4))).2.stage (.e true)) hpo
  have hl := procWriteRegister_held
    (s := (procWriteRegister ((procPrewrite r (s.stage (.d 0xF#4))).2.stage (.e true))).2.memRead.2.stage (.e false)) hh.isOpen
  unfold procReadNibble
  dsimp only
  split
  · exact acc_keeps (acc_keeps hp hh.result) hl.result
  · exact acc_keeps (acc_keeps (acc_keeps hp hh.result) rfl) hl.result

theorem procReadRegister_io {s : State} (ho : s.isOpen = true) : ioResultOk (procReadRegister s).1 = true := by
  unfold procReadRegister
  rw [if_pos ho]
  have hhi := procReadNibble_io (r := .ok) (s := (s.stage (.rs false)).stage (.rw true)) rfl ho
  exact procReadNibble_io hhi (procReadNibble_open ho)

theorem procPoll_held {fuel : Nat} {s u : State} {r : Result} (ho : s.isOpen = true) (h : procPoll fuel s = some (r, u)) :
    HeldIo r u := by
  induction fuel generalizing s with
  | zero => cases h
  | succ fuel ih =>
    have hio := procReadRegister_io ho
    have hopen := procReadRegister_open ho
    rw [procPoll] at h
    rcases hp : procReadRegister s with ⟨_ | f, sr, s1⟩ <;> rw [hp] at h hio hopen <;> dsimp only at h
    · split at h
      · exact ih hopen h
      · cases h; exact ⟨rfl, hopen⟩
    · cases h; exact ⟨hio, hopen⟩

theorem procWriteByte_held {fuel : Nat} {rs : Bool} {v : Byte} {s u : State} {r : Result} (ho : s.isOpen = true)
    (h : procWriteByte fuel rs v s = some (r, u)) : HeldIo r u := procPoll_held (procTwoLatches_held ho rs v) h

theorem procBytes_held {fuel : Nat} {rs : Bool} {vs : List Byte} {q p : Result × State} (hq : HeldIo q.1 q.2)
    (h : procBytes fuel rs vs q = some p) : HeldIo p.1 p.2 := by
  induction vs generalizing q with
  | nil => cases h; exact hq
  | cons v vs ih =>
    rw [procBytes] at h
    rcases hv : procWriteByte fuel rs v q.2 with _ | ⟨r1, s1⟩ <;> rw [hv] at h <;> dsimp only at h
    · cases h
    · have hb := procWriteByte_held hq.isOpen hv
      exact ih ⟨acc_keeps hq.result hb.result, hb.isOpen⟩ h

theorem procInitSteps_held {fuel : Nat} {s u : State} {r : Result} (ho : s.isOpen = true)
    (h : procInitSteps fuel s = some (r, u)) : HeldIo r u := by
  unfold procInitSteps at h
  rcases h1 : procBytes fuel false [s.cfg.opcFunc8] (.ok, s) with _ | ⟨r1, s1⟩ <;> rw [h1] at h <;> dsimp only at h
  · cases h
  · have hb := procBytes_held (q := (.ok, s)) ⟨rfl, ho⟩ h1
    have hraw := procRawNibble_held hb.isOpen s.cfg.nibTo4
    exact procBytes_held (q := (acc r1 (procRawNibble s.cfg.nibTo4 s1).1, (procRawNibble s.cfg.nibTo4 s1).2))
      ⟨acc_keeps hb.result hraw.result, hraw.isOpen⟩ h

theorem procLineBytes_held {fuel : Nat} {off : Byte} {t : List Byte} {s u : State} {r : Result} (ho : s.isOpen = true)
    (h : procLineBytes fuel off t s = some (r, u)) : HeldIo r u := by
  unfold procLineBytes at h
  rcases h1 : procBytes fuel false [setddaByte off] (.ok, s) with _ | ⟨r1, s1⟩ <;> rw [h1] at h <;> dsimp only at h
  · cases h
  · exact procBytes_held (procBytes_held (q := (.ok, s)) ⟨rfl, ho⟩ h1) h

/-! ### Results of the commands -/

/-- A status read returns `NotConnected`, or the result of its transfers. -/
theorem procReadRegister_result (s : State) : statusResultOk (procReadRegister s).1 = true := by
  by_cases ho : s.isOpen = true
  · exact statusResultOk_of_io (procReadRegister_io ho)
  · rw [procReadRegister_closed ho]
    rfl

/-- A byte write returns what its last status read returns. -/
theorem procWriteByte_result {fuel : Nat} {rs : Bool} {v : Byte} {s u : State} {r : Result}
    (h : procWriteByte fuel rs v s = some (r, u)) : statusResultOk r = true := by
  unfold procWriteByte at h
  generalize procTwoLatches rs v s = s1 at h
  induction fuel generalizing s1 with
  | zero => cases h
  | succ fuel ih =>
    have hres := procReadRegister_result s1
    rw [procPoll] at h
    rcases hp : procReadRegister s1 with ⟨_ | f, sr, s2⟩ <;> rw [hp] at h hres <;> dsimp only at h
    · split at h
      · exact ih s2 h
      · cases h; rfl
    · cases h; exact hres

theorem procOpen_isOpen {s s1 : State} (h : procOpen s = (.ok, s1)) : s1.isOpen = true := by
  unfold procOpen at h
  split at h
  · rename_i ho
    cases h
    exact ho
  · split at h
    · cases h
    · rw [(busOpen_ok h).2]
      rfl

/-- A sequence fails as its `open()` does, or as its transfers do. -/
theorem procSequence_result {steps : State → Option (Result × State)} {s u : State} {r : Result}
    (h : procSequence steps s = some (r, u))
    (hsteps : ∀ s1 r1 u1, s1.isOpen = true → steps s1 = some (r1, u1) → HeldIo r1 u1) : writeResultOk r = true := by
  have hres := procOpen_result s
  unfold procSequence at h
  rcases hopen : procOpen s with ⟨_ | f, s1⟩ <;> rw [hopen] at h hres <;> dsimp only at h
  · rcases hp : steps s1 with _ | ⟨r1, u1⟩ <;> rw [hp] at h
    · cases h
    · cases h
      exact writeResultOk_of_io (hsteps s1 _ _ (procOpen_isOpen hopen) hp).result
  · cases h
    exact hres

/-- A procedure returns what the table lists for its command. -/
theorem procCommand_result {fuel : Nat} {i : Instr} {s u : State} {r : Response} (h : procCommand fuel i s = some (r, u)) :
    mayReturn i r.result = true := by
  cases i with
  | openBus => cases h; exact procOpen_result s
  | wrreg => cases h; exact procWriteRegister_result s
  | latch => cases h; exact procLatch_result s
  | setbl f => cases h; exact procWriteRegister_result _
  | closeBus | getbl | getexcl | getaddr | getdev | setexcl f | setaddr a | setdev p => cases h; rfl
  | rdreg | getstat =>
    have hres := procReadRegister_result s
    dsimp only [procCommand] at h
    rcases hp : procReadRegister s with ⟨_ | f, sr, s1⟩ <;> rw [hp] at h hres <;> cases h
    · rfl
    · exact hres
  | wrbyte rs v | clear | home | setdda off | cursmode =>
    obtain ⟨q, hq, rfl⟩ := plainly_eq h
    exact procWriteByte_result hq
  | init =>
    obtain ⟨q, hq, rfl⟩ := plainly_eq h
    exact procSequence_result (steps := procInitSteps fuel) hq fun _ _ _ ho hp => procInitSteps_held ho hp
  | line off t =>
    obtain ⟨q, hq, rfl⟩ := plainly_eq h
    cases t with
    | none => cases hq; rfl
    | some bs =>
      exact Bool.or_eq_true_iff.2 (.inl (procSequence_result (steps := procLineBytes fuel off bs) hq
        fun _ _ _ ho hp => procLineBytes_held ho hp))

/-- In the course of a command no response is delivered but the one that ends it. -/
theorem drive_responses {n : Nat} {s v : State} (hreset : s.resetReq = false) (hrun : ∃ w, s.seq = .running w)
    (h : drive n s = .next v) :
    (∃ w, v.seq = .running w ∧ v.responses = s.responses) ∨
      (v.seq = .idle ∧ ∃ r, v.responses = s.responses ++ [r]) := by
  induction n generalizing s with
  | zero =>
    cases h
    obtain ⟨w, hw⟩ := hrun
    exact .inl ⟨w, hw, rfl⟩
  | succ n ih =>
    obtain ⟨w, hw⟩ := hrun
    rw [drive_succ hreset hw] at h
    rcases hadv : advance w.todo w s with t | f | r <;> rw [hadv] at h
    · have hstep : step s = .next t := by rw [step_running hreset hw, hadv]
      obtain ⟨-, ⟨w', hw', hresp⟩ | ⟨hidle, hresp⟩⟩ := runningBlockTakesNoCommand s t w hreset hw hstep
      · have ht := ih ((advance_sameSettings _ _ _ _ hadv).reset hreset) ⟨w', hw'⟩ h
        rwa [hresp] at ht
      · rw [thenDrive, drive_idle hidle] at h
        cases h
        exact .inr ⟨hidle, hresp⟩
    · cases h
    · cases h

/-- Settles O21: a run that ends is a procedure that has returned (O23), and one response has been appended. -/
theorem responsesFollowTheResultTable : Obligations.ResponsesFollowTheResultTable := by
  intro i s t v n hreset hexec hrun hidle
  have ha := exec_accepted hexec
  obtain ⟨fuel, r, u, hp, rfl⟩ := sequencerReturnsOnlyAsTheProcedure i s t v n hreset hexec hrun hidle
  obtain ⟨w, hw, -⟩ | ⟨-, q, hq⟩ := drive_responses (by rw [ha.resetReq, hreset]) ha.running hrun
  · cases hw
  · refine ⟨q, by rw [hq, ha.responses], ?_⟩
    rw [State.answered_responses] at hq
    have hr : [r.delivered] = [q] := (List.append_inj' hq rfl).2
    rw [← (List.cons.inj hr).1, delivered_result]
    exact procCommand_result hp

end Sys2Proof.Machine
end

section
/-! Runs whose answers are given: how many steps a command takes, and what its procedure does with each answer, in a held
connection with `PREWRITE` false (42_display_protocol.md R149, 43_display_sequences.md R165). -/

namespace Sys2Proof.Machine

/-! ### One step for each event, and one for the response -/

/-- A step of a running procedure ends the command without an event, or goes on with one. -/
theorem Ends.count {s t : State} {g : Img} (h : Ends s g t) :
    (t.seq = .idle ∧ t.trace.length = s.trace.length) ∨
      ((∃ w, t.seq = .running w) ∧ t.trace.length = s.trace.length + 1) := by
  cases h with
  | answer r => exact .inl ⟨rfl, rfl⟩
  | write ho k w | read ho k w | close ho hx k w => exact .inr ⟨⟨_, rfl⟩, List.length_append⟩
  | opening ho name hd k w => exact .inr ⟨⟨_, rfl⟩, by simp [State.withImg]⟩

/-- A command that is still running has issued an event in each step; one that has ended has taken one step more. -/
theorem drive_count {n : Nat} {s v : State} (hreset : s.resetReq = false) (hrun : ∃ w, s.seq = .running w)
    (h : drive n s = .next v) :
    ((∃ w, v.seq = .running w) ∧ v.trace.length = s.trace.length + n) ∨
      (v.seq = .idle ∧ ∃ m, m ≤ n ∧ drive m s = .next v ∧ v.trace.length + 1 = s.trace.length + m) := by
  induction n generalizing s with
  | zero => cases h; exact .inl ⟨hrun, rfl⟩
  | succ n ih =>
    obtain ⟨w, hw⟩ := hrun
    have hstep : ∀ m, drive (m + 1) s = thenDrive m (advance w.todo w s) := drive_succ hreset hw
    rw [hstep] at h
    rcases hadv : advance w.todo w s with t | f | r <;> rw [hadv] at h hstep
    · obtain ⟨g, hends⟩ := advance_ends _ _ _ _ hadv
      obtain ⟨hidle, hlen⟩ | ⟨hgoes, hlen⟩ := hends.count
      · rw [thenDrive, drive_idle hidle] at h
        cases h
        exact .inr ⟨hidle, 1, by omega, by rw [hstep]; rfl, by omega⟩
      · obtain ⟨hv, hvlen⟩ | ⟨hv, m, hm, hdrive, hvlen⟩ := ih (hends.sameSettings.reset hreset) hgoes h
        · exact .inl ⟨hv, by omega⟩
        · exact .inr ⟨hv, m + 1, by omega, by rw [hstep]; exact hdrive, by omega⟩
    · cases h
    · cases h

/-- A command that ends takes one step for each of its events and one for its response. -/
theorem drive_events {n : Nat} {s v : State} (hreset : s.resetReq = false) (hrun : ∃ w, s.seq = .running w)
    (h : drive n s = .next v) (hidle : v.seq = .idle) {events : Nat} (hlen : v.trace.length = s.trace.length + events) :
    drive (events + 1) s = .next v := by
  obtain ⟨⟨w, hw⟩, -⟩ | ⟨-, m, -, hdrive, hcount⟩ := drive_count hreset hrun h
  · rw [hidle] at hw
    cases hw
  · rwa [show events + 1 = m by omega]

/-- A command whose procedure returns runs it in one step for each event and one for the response. -/
theorem procCommand_run {fuel : Nat} {i : Instr} {s u : State} {r : Response} (hreset : s.resetReq = false)
    (h : procCommand fuel i s = some (r, u)) {events : Nat} (hlen : u.trace.length = s.trace.length + events) :
    ∃ t, exec i s = .next t ∧ drive (events + 1) t = .next (u.answered r) := by
  obtain ⟨t, hexec, n, hrun⟩ := sequencerRunsTheProcedure i s fuel r u hreset h
  have ha := exec_accepted hexec
  exact ⟨t, hexec, drive_events (by rw [ha.resetReq, hreset]) ha.running hrun rfl (by rw [ha.trace]; exact hlen)⟩

/-! ### Given answers -/

/-- `s` after events that leave the image `g`, the answers `ws` and `rs` still to come, and the trace longer by `tr`. -/
def State.played (g : Img) (ws : List WriteAnswer) (rs : List ReadAnswer) (tr : List BusEvent) (s : State) : State :=
  { s with img := g, env := { s.env with writes := ws, reads := rs }, trace := s.trace ++ tr }

theorem played_played (g g' : Img) (ws ws' : List WriteAnswer) (rs rs' : List ReadAnswer) (tr tr' : List BusEvent)
    (s : State) : (s.played g ws rs tr).played g' ws' rs' tr' = s.played g' ws' rs' (tr ++ tr') := by
  simp [State.played]

theorem memWrite_plays {s : State} {a : WriteAnswer} {ws : List WriteAnswer} (h : s.env.writes = a :: ws) :
    s.memWrite =
      (writeResult a, s.played s.img ws s.env.reads [.wrote s.ldev s.laddr (s.img.byte s.cfg.layout) a]) := by
  rw [State.memWrite, takeWrite_cons h]
  rfl

theorem memRead_plays {s : State} {a : ReadAnswer} {rs : List ReadAnswer} (h : s.env.reads = a :: rs) :
    s.memRead = (a, s.played s.img s.env.writes rs [.sampled s.ldev s.laddr a]) := by
  rw [State.memRead, takeRead_cons h]
  rfl

theorem procWriteRegister_plays {s : State} (ho : s.isOpen = true) {a : WriteAnswer} {ws : List WriteAnswer}
    (h : s.env.writes = a :: ws) :
    procWriteRegister s =
      (writeResult a, s.played s.img ws s.env.reads [.wrote s.ldev s.laddr (s.img.byte s.cfg.layout) a]) := by
  rw [procWriteRegister_open ho, memWrite_plays h]

theorem procLatch_plays {s : State} (ho : s.isOpen = true) {a b : WriteAnswer} {ws : List WriteAnswer}
    (h : s.env.writes = a :: b :: ws) :
    procLatch s =
      (acc (writeResult a) (writeResult b), s.played { s.img with e := false } ws s.env.reads
        [.wrote s.ldev s.laddr (Img.byte s.cfg.layout { s.img with e := true }) a,
          .wrote s.ldev s.laddr (Img.byte s.cfg.layout { s.img with e := false }) b]) := by
  unfold procLatch
  dsimp only
  rw [procWriteRegister_plays (s := s.stage (.e true)) ho h]
  dsimp only
  rw [procWriteRegister_plays (s := ((s.stage (.e true)).played _ _ _ _).stage (.e false)) (a := b) (ws := ws) ho rfl]
  simp [State.played, State.stage, Img.stage]

theorem procStageNibble_plays {s : State} (hpre : s.cfg.prewrite = false) (n : Nibble) :
    procStageNibble n s = s.stage (.d n) := by
  rw [procStageNibble, hpre]
  rfl

/-- The two latch cycles of a byte write. -/
theorem procTwoLatches_plays {s : State} (ho : s.isOpen = true) (hpre : s.cfg.prewrite = false) (rs : Bool) (v : Byte)
    {a1 a2 a3 a4 : WriteAnswer} {ws : List WriteAnswer} (h : s.env.writes = a1 :: a2 :: a3 :: a4 :: ws) :
    procTwoLatches rs v s =
      s.played { rs := rs, rw := false, e := false, bl := s.img.bl, d := lowNibble v } ws s.env.reads
        (List.zipWith (fun b x => BusEvent.wrote s.ldev s.laddr b x) (latchBytes s.cfg.layout s.img.bl rs v)
          [a1, a2, a3, a4]) := by
  unfold procTwoLatches
  dsimp only
  rw [procStageNibble_plays (s := (s.stage (.rs rs)).stage (.rw false)) hpre,
    procLatch_plays (s := ((s.stage (.rs rs)).stage (.rw false)).stage (.d (highNibble v))) ho h]
  dsimp only
  rw [procStageNibble_plays (by exact hpre), procLatch_plays (a := a3) (b := a4) (ws := ws) (by exact ho) (by rfl)]
  simp [State.played, State.stage, Img.stage, latchBytes]

/-- One turn of a status read. -/
theorem procReadNibble_plays {s : State} (ho : s.isOpen = true) (hpre : s.cfg.prewrite = false) (res : Result)
    {w1 w2 : WriteAnswer} {r : ReadAnswer} {ws : List WriteAnswer} {rs : List ReadAnswer}
    (hw : s.env.writes = w1 :: w2 :: ws) (hr : s.env.reads = r :: rs) :
    procReadNibble res s =
      (acc (acc (acc res (writeResult w1)) (readResult r)) (writeResult w2), answerNibble s.cfg.layout r,
        s.played { s.img with d := 0xF#4, e := false } ws rs
          [.wrote s.ldev s.laddr (Img.byte s.cfg.layout { s.img with d := 0xF#4, e := true }) w1,
            .sampled s.ldev s.laddr r,
            .wrote s.ldev s.laddr (Img.byte s.cfg.layout { s.img with d := 0xF#4, e := false }) w2]) := by
  have hstaged : procPrewrite res (s.stage (.d 0xF#4)) = (res, s.stage (.d 0xF#4)) := by
    rw [procPrewrite, State.stage_cfg, hpre]
    rfl
  unfold procReadNibble
  rw [hstaged]
  dsimp only
  rw [procWriteRegister_plays (s := (s.stage (.d 0xF#4)).stage (.e true)) ho hw]
  dsimp only
  rw [memRead_plays (a := r) (rs := rs) (by exact hr)]
  dsimp only
  rw [procWriteRegister_plays (a := w2) (ws := ws) (by exact ho) (by rfl)]
  cases r <;> simp [State.played, State.stage, Img.stage, answerNibble, readResult]

/-- A status read with its answers given. -/
theorem procReadRegister_plays {s : State} (ho : s.isOpen = true) (hpre : s.cfg.prewrite = false) (p : ReadPlay)
    {ws : List WriteAnswer} {rs : List ReadAnswer} (hw : s.env.writes = p.writes ++ ws)
    (hr : s.env.reads = p.reads ++ rs) :
    procReadRegister s =
      (p.result, joinNibbles (answerNibble s.cfg.layout p.r1) (answerNibble s.cfg.layout p.r2),
        s.played (Img.readPattern s.img.bl) ws rs (p.trace s.cfg.layout s.img.bl s.ldev s.laddr)) := by
  unfold procReadRegister
  rw [if_pos ho]
  dsimp only
  rw [procReadNibble_plays (s := (s.stage (.rs false)).stage (.rw true)) ho hpre .ok hw hr]
  dsimp only
  rw [procReadNibble_plays (w1 := p.w3) (w2 := p.w4) (r := p.r2) (ws := ws) (rs := rs) (by exact ho) (by exact hpre) _
    (by rfl) (by rfl)]
  simp [State.played, State.stage, Img.stage, Img.readPattern, ReadPlay.trace, patternByte, ReadPlay.result,
    statusReadResult, lastFailure]

/-- A busy-poll with its answers given: the busy status reads and the one that ends it. -/
theorem procPoll_plays {polls : List ReadPlay} {last : ReadPlay} {s : State} (ho : s.isOpen = true)
    (hpre : s.cfg.prewrite = false) (hbusy : polls.all (ReadPlay.busy s.cfg.layout) = true)
    (hlast : last.busy s.cfg.layout = false) {ws : List WriteAnswer} {rs : List ReadAnswer}
    (hw : s.env.writes = (polls ++ [last]).flatMap ReadPlay.writes ++ ws)
    (hr : s.env.reads = (polls ++ [last]).flatMap ReadPlay.reads ++ rs) :
    procPoll (polls.length + 1) s =
      some (last.result, s.played (Img.readPattern s.img.bl) ws rs
        ((polls ++ [last]).flatMap (ReadPlay.trace s.cfg.layout s.img.bl s.ldev s.laddr))) := by
  induction polls generalizing s with
  | nil =>
    simp only [List.nil_append, List.flatMap_cons, List.flatMap_nil, List.append_nil] at hw hr ⊢
    rw [List.length_nil, procPoll, procReadRegister_plays ho hpre last hw hr]
    rcases hres : last.result with _ | f
    · have hready : busyOf (joinNibbles (answerNibble s.cfg.layout last.r1) (answerNibble s.cfg.layout last.r2)) = false := by
        simpa [ReadPlay.busy, hres] using hlast
      simp [hready]
    · rfl
  | cons p polls ih =>
    obtain ⟨hp, hpolls⟩ := (by simpa using hbusy :
      p.busy s.cfg.layout = true ∧ polls.all (ReadPlay.busy s.cfg.layout) = true)
    obtain ⟨hres, hb⟩ := (by simpa [ReadPlay.busy] using hp : p.result = .ok ∧
      busyOf (joinNibbles (answerNibble s.cfg.layout p.r1) (answerNibble s.cfg.layout p.r2)) = true)
    simp only [List.cons_append, List.flatMap_cons, List.append_assoc] at hw hr ⊢
    rw [List.length_cons, procPoll, procReadRegister_plays ho hpre p hw hr, hres]
    dsimp only
    rw [if_pos hb, ih (by exact ho) (by exact hpre) (by exact hpolls) (by exact hlast) (by rfl) (by rfl)]
    rw [played_played]
    rfl

/-- A byte write with its answers given. -/
theorem procWriteByte_plays {s : State} (ho : s.isOpen = true) (hpre : s.cfg.prewrite = false) (rs : Bool) (v : Byte)
    (p : BytePlay) (hends : p.ends s.cfg.layout = true) {ws : List WriteAnswer} {more : List ReadAnswer}
    (hw : s.env.writes = p.writes ++ ws) (hr : s.env.reads = p.reads ++ more) :
    procWriteByte (p.polls.length + 1) rs v s =
      some (p.last.result, s.played (Img.readPattern s.img.bl) ws more
        (p.trace s.cfg.layout s.img.bl s.ldev s.laddr rs v)) := by
  obtain ⟨hbusy, hlast⟩ := (by simpa [BytePlay.ends] using hends :
    (∀ q ∈ p.polls, q.busy s.cfg.layout = true) ∧ p.last.busy s.cfg.layout = false)
  rw [procWriteByte, procTwoLatches_plays ho hpre rs v hw,
    procPoll_plays (polls := p.polls) (last := p.last) (ws := ws) (rs := more) (by exact ho) (by exact hpre)
      (by exact List.all_eq_true.2 hbusy) (by exact hlast) (by rfl) (by exact hr)]
  rw [played_played]
  rfl

theorem readPlay_trace_length (l : Layout) (bl : Bool) (name : List Byte) (a : Byte) (ps : List ReadPlay) :
    (ps.flatMap (ReadPlay.trace l bl name a)).length = 6 * ps.length := by
  induction ps with
  | nil => rfl
  | cons p ps ih =>
    rw [List.flatMap_cons, List.length_append, ih, List.length_cons]
    simp only [ReadPlay.trace, List.length_cons, List.length_nil]
    omega

/-- R149 (a): four events of the latch cycles, and six for each status read. -/
theorem bytePlay_trace_length (l : Layout) (bl : Bool) (name : List Byte) (a : Byte) (rs : Bool) (v : Byte) (p : BytePlay) :
    (p.trace l bl name a rs v).length = 4 + 6 * (p.polls.length + 1) := by
  rw [BytePlay.trace, List.length_append, readPlay_trace_length]
  simp [latchBytes]

/-! ### RDREG, GETSTAT and the byte commands in a held connection -/

/-- A command that reads the status for the host, its answers given. -/
theorem statusCommand_plays {i : Instr} {value : Byte → Response} {s : State} (hreset : s.resetReq = false)
    (ho : s.isOpen = true) (hpre : s.cfg.prewrite = false)
    (hproc : ∀ r sr u, procReadRegister s = (r, sr, u) → procCommand 0 i s = some (statusResponse r (value sr), u))
    (p : ReadPlay) {ws : List WriteAnswer} {rs : List ReadAnswer} (hw : s.env.writes = p.writes ++ ws)
    (hr : s.env.reads = p.reads ++ rs) :
    ∃ t, exec i s = .next t ∧ drive 7 t = .next ((s.played (Img.readPattern s.img.bl) ws rs
      (p.trace s.cfg.layout s.img.bl s.ldev s.laddr)).answered (statusResponse p.result
        (value (joinNibbles (answerNibble s.cfg.layout p.r1) (answerNibble s.cfg.layout p.r2))))) :=
  procCommand_run hreset (hproc _ _ _ (procReadRegister_plays ho hpre p hw hr)) List.length_append

/-- Settles O30: the procedure of both commands is the status read, and what they answer is its result. -/
theorem statusReadSamplesBothNibbles : Obligations.StatusReadSamplesBothNibbles := by
  intro s w1 w2 w3 w4 ws r1 r2 rs hreset ho hpre hw hr
  refine ⟨statusCommand_plays hreset ho hpre ?_ ⟨w1, r1, w2, w3, r2, w4⟩ hw hr,
    statusCommand_plays hreset ho hpre ?_ ⟨w1, r1, w2, w3, r2, w4⟩ hw hr⟩ <;>
  · intro r sr u hp
    cases r <;> simp only [procCommand, hp, statusResponse]

/-- A byte command in a held connection, its answers given. -/
theorem byteCommand_plays {i : Instr} {s : State} {rs : Bool} {v : Byte} (hreset : s.resetReq = false)
    (ho : s.isOpen = true) (hpre : s.cfg.prewrite = false)
    (hproc : ∀ fuel, procCommand fuel i s = (procWriteByte fuel rs v s).map plainly)
    (p : BytePlay) (hends : p.ends s.cfg.layout = true) {ws : List WriteAnswer} {more : List ReadAnswer}
    (hw : s.env.writes = p.writes ++ ws) (hr : s.env.reads = p.reads ++ more) :
    ∃ t, exec i s = .next t ∧ drive (4 + 6 * (p.polls.length + 1) + 1) t =
      .next ((s.played (Img.readPattern s.img.bl) ws more (p.trace s.cfg.layout s.img.bl s.ldev s.laddr rs v)).answered
        (Response.ofResult p.last.result)) := by
  refine procCommand_run hreset (fuel := p.polls.length + 1) ?_ ?_
  · rw [hproc, procWriteByte_plays ho hpre rs v p hends hw hr]
    rfl
  · rw [State.played, List.length_append, bytePlay_trace_length]

/-- A status read whose events are all answered, with its two samples. -/
def ReadPlay.answering (q : Byte × Byte) : ReadPlay := ⟨.ok, .byte q.1, .ok, .ok, .byte q.2, .ok⟩

theorem answering_busy (l : Layout) (q : Byte × Byte) : (ReadPlay.answering q).busy l = pairBusy l q := rfl

/-- A byte write with any answers to its latch cycles, whose status reads are all answered. -/
def BytePlay.answering (w1 w2 w3 w4 : WriteAnswer) (busy : List (Byte × Byte)) (ready : Byte × Byte) : BytePlay :=
  ⟨w1, w2, w3, w4, busy.map ReadPlay.answering, ReadPlay.answering ready⟩

theorem answering_ends {l : Layout} {w1 w2 w3 w4 : WriteAnswer} {busy : List (Byte × Byte)} {ready : Byte × Byte}
    (hbusy : ∀ p ∈ busy, pairBusy l p = true) (hready : pairBusy l ready = false) :
    (BytePlay.answering w1 w2 w3 w4 busy ready).ends l = true := by
  simpa [BytePlay.ends, BytePlay.answering, answering_busy, hready] using hbusy

theorem answering_writes (w1 w2 w3 w4 : WriteAnswer) (busy : List (Byte × Byte)) (ready : Byte × Byte) :
    (BytePlay.answering w1 w2 w3 w4 busy ready).writes =
      w1 :: w2 :: w3 :: w4 :: List.replicate (4 * (busy.length + 1)) .ok := by
  have hall : ∀ qs : List (Byte × Byte),
      (qs.map ReadPlay.answering).flatMap ReadPlay.writes = List.replicate (4 * qs.length) .ok := by
    intro qs
    induction qs with
    | nil => rfl
    | cons q qs ih =>
      rw [List.map_cons, List.flatMap_cons, ih, List.length_cons, Nat.mul_add, Nat.add_comm, ← List.replicate_append_replicate]
      rfl
  have hlast := hall (busy ++ [ready])
  simp only [List.map_append, List.map_cons, List.map_nil, List.length_append, List.length_cons, List.length_nil] at hlast
  rw [BytePlay.writes, BytePlay.answering, hlast]

theorem answering_reads (w1 w2 w3 w4 : WriteAnswer) (busy : List (Byte × Byte)) (ready : Byte × Byte) :
    (BytePlay.answering w1 w2 w3 w4 busy ready).reads = pairAnswers (busy ++ [ready]) := by
  simp [BytePlay.reads, BytePlay.answering, pairAnswers, List.flatMap_map, ReadPlay.answering, ReadPlay.reads]

theorem answering_trace (l : Layout) (bl : Bool) (name : List Byte) (a : Byte) (rs : Bool) (v : Byte)
    (w1 w2 w3 w4 : WriteAnswer) (busy : List (Byte × Byte)) (ready : Byte × Byte) :
    (BytePlay.answering w1 w2 w3 w4 busy ready).trace l bl name a rs v =
      List.zipWith (fun b x => BusEvent.wrote name a b x) (latchBytes l bl rs v) [w1, w2, w3, w4] ++
        (busy ++ [ready]).flatMap fun q => statusReadTrace l bl name a q.1 q.2 := by
  simp [BytePlay.trace, BytePlay.answering, List.flatMap_map, ReadPlay.answering, ReadPlay.trace, statusReadTrace]

/-- Settles O40: the byte write whose status reads are all answered. -/
theorem writeByteLatchesTwiceAndPolls : Obligations.WriteByteLatchesTwiceAndPolls := by
  intro s rs v w1 w2 w3 w4 ws busy ready more hreset ho hpre hbusy hready hw hr
  obtain ⟨t, hexec, hrun⟩ := byteCommand_plays (i := .wrbyte rs v) hreset ho hpre (fun _ => rfl)
    (BytePlay.answering w1 w2 w3 w4 busy ready) (answering_ends hbusy hready)
    (ws := ws) (more := more) (by rw [hw, answering_writes]; rfl) (by rw [hr, answering_reads])
  rw [answering_trace] at hrun
  simp only [BytePlay.answering, List.length_map] at hrun
  refine ⟨t, hexec, hrun.trans ?_⟩
  rw [List.append_assoc]
  rfl

/-- Settles O41: the byte write whose last status read fails. -/
theorem failedStatusReadEndsThePoll : Obligations.FailedStatusReadEndsThePoll := by
  intro s rs v p f ws more hreset ho hpre hbusy hf hw hr
  have hends : p.ends s.cfg.layout = true := by simp [BytePlay.ends, hbusy, ReadPlay.busy, hf]
  obtain ⟨t, hexec, hrun⟩ := byteCommand_plays (i := .wrbyte rs v) hreset ho hpre (fun _ => rfl) p hends hw hr
  rw [hf] at hrun
  exact ⟨t, hexec, hrun⟩

/-- Settles O43: each of the four commands is the byte write of its instruction byte. -/
theorem byteCommandsComplete : Obligations.ByteCommandsComplete := by
  intro s i x off ws ready more hi hreset ho hpre hready hw hr
  have hproc : ∀ fuel, procCommand fuel i s = (procWriteByte fuel false x s).map plainly := by
    rcases hi with ⟨rfl, rfl⟩ | ⟨rfl, rfl⟩ | ⟨rfl, rfl⟩ | ⟨rfl, rfl⟩ <;> exact fun _ => rfl
  obtain ⟨t, hexec, hrun⟩ := byteCommand_plays hreset ho hpre hproc (BytePlay.answering .ok .ok .ok .ok [] ready)
    (answering_ends (by simp) hready) (ws := ws) (more := more) (by rw [hw, answering_writes]; rfl)
    (by rw [hr, answering_reads]; rfl)
  rw [answering_trace] at hrun
  exact ⟨t, hexec, hrun⟩

end Sys2Proof.Machine
end

section
/-! The sequences with their answers given, the byte write outside a connection, and the poll without a bound
(42_display_protocol.md R141, R142, 43_display_sequences.md). -/

namespace Sys2Proof.Machine

/-! ### Runs of byte writes -/

/-- The image after some byte writes: the status-read pattern, once there has been one. -/
def playedImg (g : Img) : List BytePlay → Img
  | [] => g
  | _ :: _ => Img.readPattern g.bl

@[simp] theorem readPattern_bl (bl : Bool) : (Img.readPattern bl).bl = bl := rfl

theorem playedImg_readPattern (bl : Bool) (ps : List BytePlay) :
    playedImg (Img.readPattern bl) ps = Img.readPattern bl := by
  cases ps <;> rfl

/-- Byte writes one after another, their answers given: all of them happen, and the results accumulate. -/
theorem procBytes_plays {s : State} (ho : s.isOpen = true) (hpre : s.cfg.prewrite = false) (rs : Bool) (res : Result)
    {vs : List Byte} {ps : List BytePlay} (hlen : ps.length = vs.length) (hends : ∀ p ∈ ps, p.ends s.cfg.layout = true)
    {ws : List WriteAnswer} {more : List ReadAnswer} (hw : s.env.writes = ps.flatMap BytePlay.writes ++ ws)
    (hr : s.env.reads = ps.flatMap BytePlay.reads ++ more) :
    ∃ fuel, procBytes fuel rs vs (res, s) =
      some ((ps.map fun p => p.last.result).foldl acc res, s.played (playedImg s.img ps) ws more
        (List.zipWith (fun v p => BytePlay.trace s.cfg.layout s.img.bl s.ldev s.laddr rs v p) vs ps).flatten) := by
  induction ps generalizing s res vs with
  | nil =>
    obtain rfl : vs = [] := List.length_eq_zero_iff.1 hlen.symm
    refine ⟨0, ?_⟩
    have hwr : s.env.writes = ws := hw
    have hre : s.env.reads = more := hr
    simp [procBytes, State.played, playedImg, ← hwr, ← hre]
  | cons p ps ih =>
    obtain ⟨v, vs, rfl⟩ : ∃ v vs', vs = v :: vs' := List.exists_cons_of_length_eq_add_one hlen.symm
    rw [List.forall_mem_cons] at hends
    simp only [List.flatMap_cons, List.append_assoc] at hw hr
    have hbyte := procWriteByte_plays ho hpre rs v p hends.1 hw hr
    obtain ⟨fuel, hfuel⟩ := ih (s := s.played (Img.readPattern s.img.bl) (ps.flatMap BytePlay.writes ++ ws)
      (ps.flatMap BytePlay.reads ++ more) (p.trace s.cfg.layout s.img.bl s.ldev s.laddr rs v)) ho hpre
      (acc res p.last.result) (by simpa using hlen) hends.2 rfl rfl
    refine ⟨p.polls.length + 1 + fuel, ?_⟩
    rw [procBytes, procWriteByte_mono (Nat.le_add_right _ fuel) hbyte]
    dsimp only
    have himg : playedImg (s.played (Img.readPattern s.img.bl) (ps.flatMap BytePlay.writes ++ ws)
        (ps.flatMap BytePlay.reads ++ more) (p.trace s.cfg.layout s.img.bl s.ldev s.laddr rs v)).img ps =
          Img.readPattern s.img.bl := playedImg_readPattern s.img.bl ps
    rw [procBytes_mono (Nat.le_add_left fuel _) hfuel, played_played, himg]
    rfl

/-- A run of one byte write. -/
theorem procBytes_single {fuel : Nat} {rs : Bool} {v : Byte} {s : State} {p : Result × State}
    (h : procWriteByte fuel rs v s = some p) : procBytes fuel rs [v] (.ok, s) = some p := by
  rw [procBytes, h]
  dsimp only
  rw [procBytes, ok_acc]

/-- The raw nibble of `INIT`, its answers given. -/
theorem procRawNibble_plays {s : State} (ho : s.isOpen = true) (hpre : s.cfg.prewrite = false) (n : Nibble)
    {a b : WriteAnswer} {ws : List WriteAnswer} (hw : s.env.writes = a :: b :: ws) :
    procRawNibble n s =
      (acc (writeResult a) (writeResult b),
        s.played { rs := false, rw := false, e := false, bl := s.img.bl, d := n } ws s.env.reads
          (rawNibbleTrace s.cfg.layout s.img.bl s.ldev s.laddr n a b)) := by
  unfold procRawNibble
  rw [procStageNibble_plays (s := (s.stage (.rs false)).stage (.rw false)) hpre,
    procLatch_plays (s := ((s.stage (.rs false)).stage (.rw false)).stage (.d n)) ho hw]
  simp [State.played, State.stage, Img.stage, rawNibbleTrace]

/-! ### open() and close() around a sequence -/

/-- `open()` that succeeds binds the target, whether or not it has to ask for it. -/
theorem procOpen_plays {s : State} {name : List Byte} {a : Byte} {os : List OpenAnswer} {tr : List BusEvent}
    (h : openSucceeds s name a os tr) :
    procOpen s = (.ok, { s with
      isOpen := true, ldev := name, laddr := a, env := { s.env with opens := os }, trace := s.trace ++ tr }) := by
  obtain ⟨ho, rfl, rfl, rfl, rfl⟩ | ⟨ho, hd, rfl, hopens, rfl⟩ := h
  · rw [procOpen, if_pos ho, List.append_nil, ← ho]
  · simp only [procOpen, ho, Bool.false_eq_true, if_false, hd, State.busOpen, takeOpen_cons hopens]
    rw [← hd]
    rfl

/-- `close()` of a held connection releases it in shared mode. -/
theorem procClose_held {s : State} (ho : s.isOpen = true) :
    procClose s = { s with isOpen := s.excl, trace := s.trace ++ closeTrace s.excl } := by
  obtain ⟨cfg, img, isOpen, excl, addr, dev, laddr, ldev, seq, host, responses, env, trace, resetReq⟩ := s
  cases (show isOpen = true from ho)
  cases excl <;> simp [procClose, closeTrace, State.busClose, State.record]

/-- `s1` is `s` with the connection to `(name, a)` held: what a sequence starts its steps from. -/
structure OpenedAt (s : State) (name : List Byte) (a : Byte) (s1 : State) : Prop where
  isOpen : s1.isOpen = true
  cfg : s1.cfg = s.cfg
  img : s1.img = s.img
  ldev : s1.ldev = name
  laddr : s1.laddr = a
  writes : s1.env.writes = s.env.writes
  reads : s1.env.reads = s.env.reads

/-- A sequence whose `open()` succeeds and whose steps are given. -/
theorem procSequence_plays {steps : Nat → State → Option (Result × State)} {s : State} {name : List Byte} {a : Byte}
    {os : List OpenAnswer} {opening : List BusEvent} (hopen : openSucceeds s name a os opening) {g : Img}
    {ws : List WriteAnswer} {rs : List ReadAnswer} {tr : List BusEvent} {r : Result}
    (hsteps : ∀ s1, OpenedAt s name a s1 → ∃ fuel, steps fuel s1 = some (r, s1.played g ws rs tr)) :
    ∃ fuel, procSequence (steps fuel) s = some (r, { s with
      img := g, isOpen := s.excl, ldev := name, laddr := a
      env := { s.env with opens := os, writes := ws, reads := rs }
      trace := s.trace ++ (opening ++ tr ++ closeTrace s.excl) }) := by
  obtain ⟨fuel, hfuel⟩ := hsteps { s with
    isOpen := true, ldev := name, laddr := a, env := { s.env with opens := os }, trace := s.trace ++ opening }
    ⟨rfl, rfl, rfl, rfl, rfl, rfl, rfl⟩
  refine ⟨fuel, ?_⟩
  rw [procSequence, procOpen_plays hopen]
  dsimp only
  rw [hfuel, Option.map_some, procClose_held (by rfl)]
  simp [State.played]

/-! ### INIT -/

/-- `INIT` from its raw nibble on. -/
theorem initRest_plays {s : State} (ho : s.isOpen = true) (hpre : s.cfg.prewrite = false) (r1 : Result)
    {p3 p4 p5 p6 : BytePlay} {n1 n2 : WriteAnswer} (hends : ∀ p ∈ [p3, p4, p5, p6], p.ends s.cfg.layout = true)
    {ws : List WriteAnswer} {more : List ReadAnswer}
    (hw : s.env.writes = n1 :: n2 :: ([p3, p4, p5, p6].flatMap BytePlay.writes ++ ws))
    (hr : s.env.reads = [p3, p4, p5, p6].flatMap BytePlay.reads ++ more) :
    ∃ fuel, procBytes fuel false [s.cfg.opcFunc4, s.cfg.opcClear, s.cfg.opcHome, s.cfg.opcCursor]
        (acc r1 (procRawNibble s.cfg.nibTo4 s).1, (procRawNibble s.cfg.nibTo4 s).2) =
      some ([acc (writeResult n1) (writeResult n2), p3.last.result, p4.last.result, p5.last.result,
          p6.last.result].foldl acc r1,
        s.played (Img.readPattern s.img.bl) ws more
          (rawNibbleTrace s.cfg.layout s.img.bl s.ldev s.laddr s.cfg.nibTo4 n1 n2 ++
            p3.trace s.cfg.layout s.img.bl s.ldev s.laddr false s.cfg.opcFunc4 ++
            p4.trace s.cfg.layout s.img.bl s.ldev s.laddr false s.cfg.opcClear ++
            p5.trace s.cfg.layout s.img.bl s.ldev s.laddr false s.cfg.opcHome ++
            p6.trace s.cfg.layout s.img.bl s.ldev s.laddr false s.cfg.opcCursor)) := by
  rw [procRawNibble_plays ho hpre s.cfg.nibTo4 hw]
  obtain ⟨fuel, h⟩ := procBytes_plays
    (s := s.played { rs := false, rw := false, e := false, bl := s.img.bl, d := s.cfg.nibTo4 }
      ([p3, p4, p5, p6].flatMap BytePlay.writes ++ ws) s.env.reads
      (rawNibbleTrace s.cfg.layout s.img.bl s.ldev s.laddr s.cfg.nibTo4 n1 n2)) ho hpre false
    (acc r1 (acc (writeResult n1) (writeResult n2)))
    (vs := [s.cfg.opcFunc4, s.cfg.opcClear, s.cfg.opcHome, s.cfg.opcCursor]) rfl hends rfl hr
  refine ⟨fuel, h.trans ?_⟩
  simp [State.played, playedImg]

theorem procInitSteps_plays {s : State} (ho : s.isOpen = true) (hpre : s.cfg.prewrite = false)
    {p1 p3 p4 p5 p6 : BytePlay} {n1 n2 : WriteAnswer} (hends : ∀ p ∈ [p1, p3, p4, p5, p6], p.ends s.cfg.layout = true)
    {ws : List WriteAnswer} {more : List ReadAnswer}
    (hw : s.env.writes = p1.writes ++ [n1, n2] ++ p3.writes ++ p4.writes ++ p5.writes ++ p6.writes ++ ws)
    (hr : s.env.reads = p1.reads ++ p3.reads ++ p4.reads ++ p5.reads ++ p6.reads ++ more) :
    ∃ fuel, procInitSteps fuel s =
      some (lastFailure [p1.last.result, acc (writeResult n1) (writeResult n2), p3.last.result, p4.last.result,
          p5.last.result, p6.last.result],
        s.played (Img.readPattern s.img.bl) ws more
          (p1.trace s.cfg.layout s.img.bl s.ldev s.laddr false s.cfg.opcFunc8 ++
            rawNibbleTrace s.cfg.layout s.img.bl s.ldev s.laddr s.cfg.nibTo4 n1 n2 ++
            p3.trace s.cfg.layout s.img.bl s.ldev s.laddr false s.cfg.opcFunc4 ++
            p4.trace s.cfg.layout s.img.bl s.ldev s.laddr false s.cfg.opcClear ++
            p5.trace s.cfg.layout s.img.bl s.ldev s.laddr false s.cfg.opcHome ++
            p6.trace s.cfg.layout s.img.bl s.ldev s.laddr false s.cfg.opcCursor)) := by
  rw [List.forall_mem_cons] at hends
  have hfirst := procWriteByte_plays (ws := n1 :: n2 :: ([p3, p4, p5, p6].flatMap BytePlay.writes ++ ws))
    (more := [p3, p4, p5, p6].flatMap BytePlay.reads ++ more) ho hpre false s.cfg.opcFunc8 p1 hends.1
    (by simp [hw]) (by simp [hr])
  obtain ⟨fuel, h2⟩ := initRest_plays (s := s.played _ _ _ _) ho hpre p1.last.result hends.2 rfl rfl
  refine ⟨_, (procInitSteps_of_bytes (procBytes_single hfirst) h2).trans ?_⟩
  rw [played_played]
  simp [lastFailure, State.played]

/-- Settles O45: the procedure of `INIT` with its answers given, run by the sequencer (O22). -/
theorem initRunsItsSixSteps : Obligations.InitRunsItsSixSteps := by
  intro s name a os opening p1 p3 p4 p5 p6 n1 n2 ws more hreset hpre hopen hends hw hr
  refine ⟨?_, fun hpolls => ?_⟩
  · obtain ⟨fuel, hfuel⟩ := procSequence_plays (steps := procInitSteps) hopen fun s1 h1 => by
      have hsteps := procInitSteps_plays (s := s1) h1.isOpen (by rw [h1.cfg, hpre]) (by rw [h1.cfg]; exact hends)
        (h1.writes.trans hw) (h1.reads.trans hr)
      rw [h1.cfg, h1.img, h1.ldev, h1.laddr] at hsteps
      exact hsteps
    exact sequencerRunsTheProcedure .init s fuel _ _ hreset 
      (by rw [procCommand, procInitialize_eq, hfuel]; simp only [Option.map_some, plainly, List.append_assoc])
  · simp only [List.forall_mem_cons, List.not_mem_nil, false_imp_iff, implies_true, and_true] at hpolls
    obtain ⟨h1, h3, h4, h5, h6⟩ := hpolls
    simp only [List.length_append, bytePlay_trace_length, h1, h3, h4, h5, h6, rawNibbleTrace, List.length_cons,
      List.length_nil]

/-! ### LINE -/

theorem procLineBytes_plays {s : State} (ho : s.isOpen = true) (hpre : s.cfg.prewrite = false) (off : Byte)
    (txt : List Byte) {q : BytePlay} {qs : List BytePlay} (hlen : qs.length = 17)
    (hends : ∀ p ∈ q :: qs, p.ends s.cfg.layout = true) {ws : List WriteAnswer} {more : List ReadAnswer}
    (hw : s.env.writes = q.writes ++ qs.flatMap BytePlay.writes ++ ws)
    (hr : s.env.reads = q.reads ++ qs.flatMap BytePlay.reads ++ more) :
    ∃ fuel, procLineBytes fuel off txt s =
      some (lastFailure (q.last.result :: qs.map fun p => p.last.result),
        s.played (Img.readPattern s.img.bl) ws more
          (q.trace s.cfg.layout s.img.bl s.ldev s.laddr false (setddaByte off) ++
            (List.zipWith (fun v p => BytePlay.trace s.cfg.layout s.img.bl s.ldev s.laddr true v p) (lineChars txt)
              qs).flatten)) := by
  rw [List.forall_mem_cons] at hends
  rw [List.append_assoc] at hw hr
  have hfirst := procWriteByte_plays ho hpre false (setddaByte off) q hends.1 hw hr
  obtain ⟨fuel, h2⟩ := procBytes_plays (s := s.played _ _ _ _) ho hpre true q.last.result
    (vs := lineChars txt) (by rw [hlen, length_lineChars]) hends.2 rfl rfl
  refine ⟨_, (procLineBytes_of_bytes (procBytes_single hfirst) h2).trans ?_⟩
  rw [played_played]
  simp [lastFailure, State.played, playedImg_readPattern]

/-- The events of some byte writes that find the controller ready at once. -/
theorem bytes_trace_length (l : Layout) (bl : Bool) (name : List Byte) (a : Byte) (rs : Bool) {vs : List Byte}
    {ps : List BytePlay} (hlen : ps.length = vs.length) (hpolls : ∀ p ∈ ps, p.polls = []) :
    (List.zipWith (fun v p => BytePlay.trace l bl name a rs v p) vs ps).flatten.length = 10 * ps.length := by
  induction ps generalizing vs with
  | nil => simp
  | cons p ps ih =>
    obtain ⟨v, vs, rfl⟩ : ∃ v vs', vs = v :: vs' := List.exists_cons_of_length_eq_add_one hlen.symm
    rw [List.forall_mem_cons] at hpolls
    have htail := ih (vs := vs) (by simpa using hlen) hpolls.2
    rw [List.zipWith_cons_cons, List.flatten_cons, List.length_append, htail, bytePlay_trace_length, hpolls.1,
      List.length_cons, List.length_nil]
    omega

/-- Settles O46: the procedure of `LINE` with its answers given, run by the sequencer (O22). -/
theorem lineWritesSeventeenBytes : Obligations.LineWritesSeventeenBytes := by
  intro s off txt name a os opening q qs ws more hreset hpre hopen hlen hends hw hr
  refine ⟨?_, fun hpolls => ?_⟩
  · obtain ⟨fuel, hfuel⟩ := procSequence_plays (steps := fun fuel => procLineBytes fuel off txt) hopen fun s1 h1 => by
      have hsteps := procLineBytes_plays (s := s1) h1.isOpen (by rw [h1.cfg, hpre]) off txt hlen (by rw [h1.cfg]; exact hends)
        (h1.writes.trans hw) (h1.reads.trans hr)
      rw [h1.cfg, h1.img, h1.ldev, h1.laddr] at hsteps
      exact hsteps
    exact sequencerRunsTheProcedure (.line off (some txt)) s fuel _ _ hreset
      (by rw [procCommand, procDisplayLine_eq, hfuel]
          simp only [Option.map_some, plainly, setddaByte, Config.opcSetdda, List.append_assoc])
  · rw [List.forall_mem_cons] at hpolls
    have hbytes := bytes_trace_length s.cfg.layout s.img.bl name a true (vs := lineChars txt)
      (by rw [hlen, length_lineChars]) hpolls.2
    simp only [List.length_append, bytePlay_trace_length, hbytes, hpolls.1, hlen, List.length_nil]

/-! ### A byte write outside a connection -/

/-- `s` after transient connections to `(name, ADDR)` that leave the image `g` and the answers `os` and `ws` to come. -/
def State.visited (name : List Byte) (g : Img) (os : List OpenAnswer) (ws : List WriteAnswer) (tr : List BusEvent)
    (s : State) : State :=
  { s with
    img := g, ldev := name, laddr := s.addr, env := { s.env with opens := os, writes := ws }, trace := s.trace ++ tr }

/-- The events of one byte sent through a transient connection. -/
def visit (name : List Byte) (a b : Byte) : List BusEvent := [.opened name a .ok, .wrote name a b .ok, .closed]

/-- In shared mode, with a device name configured and no connection held. -/
structure Visiting (name : List Byte) (s : State) : Prop where
  closed : s.isOpen = false
  shared : s.excl = false
  dev : s.dev = some name

theorem procWriteRegister_visits {s : State} {name : List Byte} (h : Visiting name s) {os : List OpenAnswer}
    {ws : List WriteAnswer} (hopens : s.env.opens = .ok :: os) (hw : s.env.writes = .ok :: ws) :
    procWriteRegister s = (.ok, s.visited name s.img os ws (visit name s.addr (s.img.byte s.cfg.layout))) := by
  have hwrite := takeWrite_cons (c := s.cfg) (v := { s.env with opens := os }) (a := .ok) (as := ws) hw
  rw [procWriteRegister_transient h.closed h.dev (takeOpen_cons hopens), hwrite, h.shared]
  simp [State.visited, closeTrace, visit, writeResult, h.closed, h.shared]

/-- A latch cycle through two transient connections. -/
theorem procLatch_visits {s : State} {name : List Byte} (h : Visiting name s) {os : List OpenAnswer}
    {ws : List WriteAnswer} (hopens : s.env.opens = .ok :: .ok :: os) (hw : s.env.writes = .ok :: .ok :: ws) :
    procLatch s =
      (.ok, s.visited name { s.img with e := false } os ws
        (visit name s.addr (Img.byte s.cfg.layout { s.img with e := true }) ++
          visit name s.addr (Img.byte s.cfg.layout { s.img with e := false }))) := by
  unfold procLatch
  dsimp only
  rw [procWriteRegister_visits (s := s.stage (.e true)) ⟨h.closed, h.shared, h.dev⟩ hopens hw]
  dsimp only
  rw [procWriteRegister_visits (os := os) (ws := ws) (by exact ⟨h.closed, h.shared, h.dev⟩) (by rfl) (by rfl)]
  simp [State.visited, State.stage, Img.stage]

/-- The two latch cycles of a byte write, through four transient connections. -/
theorem procTwoLatches_visits {s : State} {name : List Byte} (h : Visiting name s) (hpre : s.cfg.prewrite = false)
    (rs : Bool) (v : Byte) {os : List OpenAnswer} {ws : List WriteAnswer}
    (hopens : s.env.opens = .ok :: .ok :: .ok :: .ok :: os) (hw : s.env.writes = .ok :: .ok :: .ok :: .ok :: ws) :
    procTwoLatches rs v s =
      s.visited name { rs := rs, rw := false, e := false, bl := s.img.bl, d := lowNibble v } os ws
        ((latchBytes s.cfg.layout s.img.bl rs v).flatMap (visit name s.addr)) := by
  unfold procTwoLatches
  dsimp only
  rw [procStageNibble_plays (s := (s.stage (.rs rs)).stage (.rw false)) hpre,
    procLatch_visits (s := ((s.stage (.rs rs)).stage (.rw false)).stage (.d (highNibble v)))
      ⟨h.closed, h.shared, h.dev⟩ hopens hw]
  dsimp only
  rw [procStageNibble_plays (by exact hpre),
    procLatch_visits (os := os) (ws := ws) (by exact ⟨h.closed, h.shared, h.dev⟩) (by rfl) (by rfl)]
  simp [State.visited, State.stage, Img.stage, latchBytes]

/-- Settles O44: four transient connections, and a poll that finds none. -/
theorem byteCommandOutsideAConnection : Obligations.ByteCommandOutsideAConnection := by
  intro s rs v name os ws hreset ho hx hd hpre hopens hw
  have hlatches := procTwoLatches_visits ⟨ho, hx, hd⟩ hpre rs v hopens hw
  have hproc : procCommand 1 (.wrbyte rs v) s = some (Response.ofResult (.err .notConnected), procTwoLatches rs v s) := by
    have hclosed : ¬(procTwoLatches rs v s).isOpen = true := by rw [hlatches]; simpa [State.visited] using ho
    rw [procCommand, procWriteByte, procPoll, procReadRegister_closed hclosed]
    rfl
  obtain ⟨t, hexec, hrun⟩ := procCommand_run (events := 12) hreset hproc (by
    rw [hlatches, State.visited, List.length_append]
    rfl)
  rw [hlatches] at hrun
  exact ⟨t, hexec, hrun⟩

/-! ### The poll without a bound -/

/-- A byte write that finds the controller busy for `N` status reads, and then ready. -/
def busyPlay (N : Nat) : BytePlay :=
  BytePlay.answering .ok .ok .ok .ok (List.replicate N (0x80#8, 0x00#8)) (0x00#8, 0x00#8)

/-- A held connection whose environment answers so. -/
def busyFor (N : Nat) : State :=
  { State.reset with
      isOpen := true, ldev := Config.devReset, laddr := Config.addrReset
      env := { opens := [], writes := (busyPlay N).writes, reads := (busyPlay N).reads, drawn := 0 } }

theorem busyPlay_ends (N : Nat) : (busyPlay N).ends Layout.default = true :=
  answering_ends (fun p hp => by rw [List.eq_of_mem_replicate hp]; decide) (by decide)

theorem busyFor_inv (N : Nat) : Inv (busyFor N) := by
  have hwrites : (busyPlay N).writes = List.replicate (4 + 4 * (N + 1)) .ok := by
    rw [busyPlay, answering_writes, List.length_replicate, ← List.replicate_append_replicate]
    rfl
  have hreads : ∀ a ∈ (busyPlay N).reads, readResult a = .ok := by
    intro a ha
    rw [busyPlay, answering_reads, pairAnswers, List.mem_flatMap] at ha
    obtain ⟨p, -, hp⟩ := ha
    simp only [List.mem_cons, List.not_mem_nil, or_false] at hp
    rcases hp with rfl | rfl <;> rfl
  have hanswers : answersFit (busyFor N).cfg (busyFor N).env = true := by
    simp only [answersFit, busyFor, hwrites, List.all_nil, Bool.true_and, Bool.and_eq_true, List.all_eq_true]
    exact ⟨fun a ha => by rw [List.eq_of_mem_replicate ha]; rfl, fun a ha => by rw [hreads a ha]; rfl⟩
  have hlegal : Config.default.legal = true := by decide
  have hname : Payload.nameLegal Config.default (some Config.devReset) = true := by decide
  have hbound : nameOk Config.default Config.devReset = true := by decide
  have hseq : (!State.reset.img.e) = true := by decide
  exact (inv_iff _).2 ⟨hlegal, hname, fun _ => hbound, fun r hr => absurd hr List.not_mem_nil, hanswers, hseq⟩

/-- Settles O42: where the controller is busy for `N` status reads and then ready, the command ends only after the last
read, so that after the `N` busy ones it is still running. -/
theorem busyControllerIsPolledWithoutBound : Obligations.BusyControllerIsPolledWithoutBound := by
  intro N
  obtain ⟨t, hexec, hend⟩ := byteCommand_plays (i := .clear) (s := busyFor N) rfl rfl rfl (fun _ => rfl) (busyPlay N)
    (busyPlay_ends N) (ws := []) (more := []) (by rw [List.append_nil]; rfl) (by rw [List.append_nil]; rfl)
  have ha := exec_accepted hexec
  obtain ⟨v, hv⟩ := drive_connected (4 + 6 * N) (exec_connected hexec)
  have hreset : t.resetReq = false := by rw [ha.resetReq]; rfl
  obtain ⟨⟨w, hw⟩, hlen⟩ | ⟨hidle, m, hm, -, hlen⟩ := drive_count hreset ha.running hv
  · obtain ⟨_, -, hresp⟩ | ⟨hidle, -⟩ := drive_responses hreset ha.running hv
    · exact ⟨busyFor N, t, v, w, busyFor_inv N, rfl, hexec, hv, hw, by rw [hresp, ha.responses], by rw [hlen, ha.trace]⟩
    · rw [hidle] at hw
      cases hw
  · have hsame := drive_idle_unique hv hend hidle rfl
    have hpolls : (busyPlay N).polls.length = N := by simp [busyPlay, BytePlay.answering]
    rw [hsame, State.answered_trace, State.played, List.length_append, bytePlay_trace_length, hpolls, ha.trace] at hlen
    omega

end Sys2Proof.Machine
end

section
/-! What the run of a command leaves as it was, and the image's mirror (10_state.md R22, R25, R26, R28, 60_exceptions.md
R190, 40_bus_transport.md R100 to R102). -/

namespace Sys2Proof.Machine

/-! ### Along the run of a command -/

/-- A step of a running procedure only appends to the trace. -/
theorem Ends.trace {s t : State} {g : Img} (h : Ends s g t) : s.trace <+: t.trace := by
  obtain ⟨htrace, -⟩ | ⟨e, htrace, -⟩ := h.event
  · exact htrace ▸ List.prefix_rfl
  · exact htrace ▸ List.prefix_append _ _

/-- A run only appends to the trace. -/
theorem drive_trace {n : Nat} {s v : State} (hreset : s.resetReq = false) (h : drive n s = .next v) :
    s.trace <+: v.trace := by
  induction n generalizing s with
  | zero => cases h; exact List.prefix_rfl
  | succ n ih =>
    cases hseq : s.seq with
    | idle => rw [drive_idle hseq] at h; cases h; exact List.prefix_rfl
    | running w =>
      rw [drive_succ hreset hseq] at h
      rcases hadv : advance w.todo w s with t | f | r <;> rw [hadv] at h
      · obtain ⟨g, hends⟩ := advance_ends _ _ _ _ hadv
        exact hends.trace.trans (ih (hends.sameSettings.reset hreset) h)
      · cases h
      · cases h

/-- The micro-operations the running command still has to do. -/
def State.todo (s : State) : List Op :=
  match s.seq with
  | .idle => []
  | .running w => w.todo

theorem todo_of_idle {s : State} (h : s.seq = .idle) : s.todo = [] := by rw [State.todo, h]

theorem todo_of_running {s : State} {w : Work} (h : s.seq = .running w) : s.todo = w.todo := by rw [State.todo, h]

/-- An accepted command has all its micro-operations to do. -/
theorem exec_todo {i : Instr} {s t : State} (h : exec i s = .next t) : t.todo = commandOps s.cfg i := by
  obtain ⟨r, hseq, -⟩ := exec_running h
  exact todo_of_running hseq

theorem startRead_todo (u : ReadUse) (k : List Op) (w : Work) (s : State) :
    (startRead u k w s).todo = readTail s.cfg u ++ k := rfl

/-- What every step of a running command keeps, holds at every point of its run. The step may use that its events are
among those of the run. -/
theorem drive_keeps {P : State → Prop} {n : Nat} {s v : State} (hreset : s.resetReq = false) (h : drive n s = .next v)
    (hs : P s) (hstep : ∀ w a b, P a → advance a.todo w a = .next b → b.trace <+: v.trace → P b) : P v := by
  induction n generalizing s with
  | zero => cases h; exact hs
  | succ n ih =>
    cases hseq : s.seq with
    | idle => rw [drive_idle hseq] at h; cases h; exact hs
    | running w =>
      rw [drive_succ hreset hseq] at h
      rcases hadv : advance w.todo w s with t | f | r <;> rw [hadv] at h
      · have ht := (advance_sameSettings _ _ _ _ hadv).reset hreset
        exact ih ht h (hstep w s t hs (todo_of_running hseq ▸ hadv) (drive_trace ht h))
      · cases h
      · cases h

theorem drive_sameSettings {n : Nat} {s v : State} (hreset : s.resetReq = false) (h : drive n s = .next v) :
    sameSettings s v :=
  drive_keeps hreset h (sameSettings_refl s) fun _ _ _ ha hadv _ => sameSettings_trans ha (advance_sameSettings _ _ _ _ hadv)

/-! ### What stays in the image -/

/-- The stagings of a status read (40_bus_transport.md R104). -/
def readStages : List Stage := [.rs false, .rw true, .d 0xF#4, .e true, .e false]

/-- The stagings of a micro-operation; the end of a status read may begin the next one. -/
def Op.stages : Op → List Stage
  | .stage f => [f]
  | .readStart _ | .readEnd _ => readStages
  | .openConn | .closeConn | .writeReg _ | .sendTransient _ | .sample _ => []

/-- None of the micro-operations changes what `f` reads of the image. -/
def Keeps {α : Type} (f : Img → α) (k : List Op) : Prop :=
  ∀ op ∈ k, ∀ x ∈ op.stages, ∀ g : Img, f (g.stage x) = f g

theorem keeps_append {α : Type} {f : Img → α} {k l : List Op} : Keeps f (k ++ l) ↔ Keeps f k ∧ Keeps f l :=
  List.forall_mem_append

theorem keeps_cons {α : Type} {f : Img → α} {op : Op} {k : List Op} :
    Keeps f (op :: k) ↔ (∀ x ∈ op.stages, ∀ g : Img, f (g.stage x) = f g) ∧ Keeps f k :=
  List.forall_mem_cons

/-- A micro-operation that stages nothing may be left out. -/
theorem keeps_quiet {α : Type} {f : Img → α} {op : Op} {k : List Op} (h : op.stages = []) :
    Keeps f (op :: k) ↔ Keeps f k := by
  rw [keeps_cons, h]
  exact and_iff_right fun _ hx => absurd hx List.not_mem_nil

theorem keeps_nil {α : Type} (f : Img → α) : Keeps f [] := fun _ ho => absurd ho List.not_mem_nil

theorem Keeps.tail {α : Type} {f : Img → α} {op : Op} {k : List Op} (h : Keeps f (op :: k)) : Keeps f k :=
  (keeps_cons.1 h).2

theorem keeps_readTail {α : Type} {f : Img → α} (h : ∀ x ∈ readStages, ∀ g : Img, f (g.stage x) = f g) (c : Config)
    (u : ReadUse) : Keeps f (readTail c u) := by
  simp only [readStages, List.forall_mem_cons] at h
  obtain ⟨hrs, hrw, hd, he, he', -⟩ := h
  simp only [readTail, prewriteOps]
  cases c.prewrite <;> simp [Keeps, Op.stages, readStages, hrs, hrw, hd, he, he']

/-- What `f` reads of the image is as it was, and no micro-operation to come changes it. -/
structure KeptImg {α : Type} (f : Img → α) (g : Img) (t : State) : Prop where
  img : f t.img = f g
  todo : Keeps f t.todo

theorem keptImg_startRead {α : Type} {f : Img → α} (h : ∀ x ∈ readStages, ∀ g : Img, f (g.stage x) = f g) {k : List Op}
    (hk : Keeps f k) (u : ReadUse) (w : Work) (s : State) : KeptImg f s.img (startRead u k w s) where
  img := by
    have hread := h
    simp only [readStages, List.forall_mem_cons] at hread
    obtain ⟨hrs, hrw, hd, he, -⟩ := hread
    unfold startRead
    cases s.cfg.prewrite with
    | true => exact (hd _).trans ((hrw _).trans (hrs _))
    | false => exact (he _).trans ((hd _).trans ((hrw _).trans (hrs _)))
  todo := keeps_append.2 ⟨keeps_readTail h _ _, hk⟩

theorem advance_keptImg {α : Type} {f : Img → α} (k : List Op) (w : Work) (s t : State) (hk : Keeps f k)
    (h : advance k w s = .next t) : KeptImg f s.img t := by
  fun_induction advance k w s with
  | case1 | case4 => cases h; exact ⟨rfl, keeps_nil f⟩
  | case2 g k w s ih =>
    obtain ⟨himg, htodo⟩ := ih hk.tail h
    exact ⟨himg.trans ((keeps_cons.1 hk).1 g List.mem_cons_self s.img), htodo⟩
  | case3 k w s _ ih | case8 k w s _ ih | case10 d k w s _ _ ih | case16 u k w s _ ih | case19 u k w s _ _ ih
  | case21 u k w s _ _ _ ih | case22 u k w s _ _ ih => exact ih hk.tail h
  | case5 k w s _ n _ s1 hb | case12 d k w s _ n _ e s1 hb =>
    cases h
    have himg : s1.img = s.img := by rw [show s1 = (s.busOpen n).2 by rw [hb], busOpen_img]
    exact ⟨congrArg f himg, hk.tail⟩
  | case6 k w s _ n _ e s1 hb =>
    cases h
    have himg : s1.img = s.img := by rw [show s1 = (s.busOpen n).2 by rw [hb], busOpen_img]
    exact ⟨congrArg f himg, keeps_nil f⟩
  | case11 d k w s _ n _ s1 hb =>
    cases h
    have himg : s1.img = s.img := by rw [show s1 = (s.busOpen n).2 by rw [hb], busOpen_img]
    exact ⟨congrArg f himg, (keeps_quiet rfl).2 ((keeps_quiet rfl).2 hk.tail)⟩
  | case7 | case9 | case13 | case17 => cases h; exact ⟨rfl, hk.tail⟩
  | case14 | case18 => cases h
  | case15 u k w s | case20 u k w s =>
    cases h
    exact keptImg_startRead (keeps_cons.1 hk).1 hk.tail _ w s

/-- A command none of whose micro-operations changes what `f` reads of the image leaves it at every point of its run. -/
theorem drive_keptImg {α : Type} {f : Img → α} {i : Instr} {s t v : State} {n : Nat} (hreset : s.resetReq = false)
    (hexec : exec i s = .next t) (h : drive n t = .next v) (hk : Keeps f (commandOps s.cfg i)) : f v.img = f s.img := by
  have ha := exec_accepted hexec
  have ht : KeptImg f s.img t := ⟨congrArg f ha.img, by rwa [exec_todo hexec]⟩
  have hv : KeptImg f s.img v := drive_keeps (by rw [ha.resetReq, hreset]) h ht fun w a b hab hadv _ =>
    have hb := advance_keptImg _ _ _ _ hab.todo hadv
    ⟨hb.img.trans hab.img, hb.todo⟩
  exact hv.img

theorem keeps_bl_writeByteOps (c : Config) (rs : Bool) (v : Byte) : Keeps Img.bl (writeByteOps c rs v) := by
  simp only [writeByteOps, stageNibbleOps, prewriteOps, latchOps]
  cases c.prewrite <;> simp [Keeps, Op.stages, readStages, Img.stage]

theorem keeps_bl_rawNibbleOps (c : Config) (n : Nibble) : Keeps Img.bl (rawNibbleOps c n) := by
  simp only [rawNibbleOps, stageNibbleOps, prewriteOps, latchOps]
  cases c.prewrite <;> simp [Keeps, Op.stages, readStages, Img.stage]

/-- No command but `SETBL` stages the backlight bit. -/
theorem keeps_bl_commandOps (c : Config) {i : Instr} (h : ∀ f, i ≠ .setbl f) : Keeps Img.bl (commandOps c i) := by
  cases i with
  | setbl f => exact absurd rfl (h f)
  | wrbyte rs v | clear | home | setdda off | cursmode => exact keeps_bl_writeByteOps _ _ _
  | init =>
    rw [commandOps, keeps_quiet rfl]
    simp only [initOps, keeps_append, keeps_bl_writeByteOps, keeps_bl_rawNibbleOps, true_and]
    exact (keeps_quiet rfl).2 (keeps_nil _)
  | line off x =>
    cases x with
    | none => exact keeps_nil _
    | some bs =>
      have hchars : Keeps Img.bl ((lineChars bs).flatMap (writeByteOps c true)) := fun op ho =>
        have ⟨v, _, hv⟩ := List.mem_flatMap.1 ho
        keeps_bl_writeByteOps c true v op hv
      rw [commandOps, keeps_quiet rfl]
      simp only [lineOps, keeps_append, keeps_bl_writeByteOps, hchars, true_and]
      exact (keeps_quiet rfl).2 (keeps_nil _)
  | openBus | closeBus | wrreg | latch | rdreg | getbl | setexcl f | getexcl | setaddr a | getaddr | setdev p | getdev
  | getstat => simp [commandOps, latchOps, Keeps, Op.stages, readStages, Img.stage]

/-- Settles O58: a running command changes no setting, and stages only what its micro-operations stage. -/
theorem commandsLeaveTheOtherRegisters : Obligations.CommandsLeaveTheOtherRegisters := by
  intro i s t v n hreset hexec hrun
  have ha := exec_accepted hexec
  obtain ⟨hcfg, hexcl, haddr, hdev, hhost, -⟩ := drive_sameSettings (by rw [ha.resetReq, hreset]) hrun
  refine ⟨hcfg.trans ha.cfg, hhost.trans ha.host, fun hi => ?_, fun hi => ?_, fun hi => ?_,
    fun hi => drive_keptImg hreset hexec hrun (keeps_bl_commandOps _ hi), fun hi => ?_⟩
  · exact hexcl.trans (ha.excl.resolve_right (hi _))
  · exact haddr.trans (ha.addr.resolve_right (hi _))
  · exact hdev.trans (ha.dev.resolve_right (hi _))
  · refine drive_keptImg (f := id) hreset hexec hrun ?_
    rcases hi with rfl | rfl | rfl | rfl | ⟨f, rfl⟩ | rfl | ⟨a, rfl⟩ | rfl | ⟨p, rfl⟩ | rfl <;>
      simp [commandOps, Keeps, Op.stages]

/-! ### What becomes of a held connection -/

/-- The connection of `s` is held, with its binding. -/
structure Held (s t : State) : Prop where
  isOpen : t.isOpen = true
  ldev : t.ldev = s.ldev
  laddr : t.laddr = s.laddr

theorem Held.trans {s t u : State} (h : Held s t) (g : Held t u) : Held s u :=
  ⟨g.isOpen, g.ldev.trans h.ldev, g.laddr.trans h.laddr⟩

/-- In exclusive mode no step of a running procedure gives up a connection. -/
theorem Ends.held {s t : State} {g : Img} (h : Ends s g t) (ho : s.isOpen = true) (hx : s.excl = true) : Held s t := by
  obtain ⟨-, hopen, hdev, haddr⟩ | ⟨e, -, hevent⟩ := h.event
  · exact ⟨hopen.trans ho, hdev, haddr⟩
  · cases hevent with
    | wrote x _ hopen hdev haddr | sampled x _ hopen hdev haddr => exact ⟨hopen, hdev, haddr⟩
    | closed _ hshared => rw [hx] at hshared; cases hshared
    | bound name hclosed | refused name x _ hclosed => rw [ho] at hclosed; cases hclosed

theorem closeConn_notMem_readTail (c : Config) (u : ReadUse) : Op.closeConn ∉ readTail c u := by
  simp only [readTail, prewriteOps]
  cases c.prewrite <;> simp

/-- A procedure that finds a connection and has no `close()` to come keeps the connection, and comes to none. -/
theorem advance_held (k : List Op) (w : Work) (s t : State) (ho : s.isOpen = true) (hk : .closeConn ∉ k)
    (h : advance k w s = .next t) : Held s t ∧ .closeConn ∉ t.todo := by
  fun_induction advance k w s with
  | case1 => cases h; exact ⟨⟨ho, rfl, rfl⟩, List.not_mem_nil⟩
  | case2 f k w s ih =>
    obtain ⟨⟨hopen, hdev, haddr⟩, htodo⟩ := ih ho (List.not_mem_of_not_mem_cons hk) h
    exact ⟨⟨hopen, hdev, haddr⟩, htodo⟩
  | case3 k w s _ ih | case19 u k w s _ _ ih | case22 u k w s _ _ ih =>
    exact ih ho (List.not_mem_of_not_mem_cons hk) h
  | case7 | case8 => exact absurd List.mem_cons_self hk
  | case9 | case13 | case17 =>
    cases h
    exact ⟨⟨ho, rfl, rfl⟩, List.not_mem_of_not_mem_cons hk⟩
  | case15 u k w s | case20 u k w s =>
    cases h
    refine ⟨⟨by rw [startRead_isOpen, ho], startRead_ldev _ _ _ _, startRead_laddr _ _ _ _⟩, ?_⟩
    rw [startRead_todo, List.mem_append]
    exact not_or.2 ⟨closeConn_notMem_readTail _ _, List.not_mem_of_not_mem_cons hk⟩
  | case4 | case5 | case6 | case10 | case11 | case12 | case14 | case16 | case18 | case21 => contradiction

/-- Only `CLOSE`, `INIT` and `LINE` have a `close()` of their own. -/
theorem closeConn_notMem_commandOps (c : Config) {i : Instr} (hclose : i ≠ .closeBus) (hinit : i ≠ .init)
    (hline : ∀ off x, i ≠ .line off x) : .closeConn ∉ commandOps c i := by
  have hbyte : ∀ rs v, Op.closeConn ∉ writeByteOps c rs v := by
    simp only [writeByteOps, stageNibbleOps, prewriteOps, latchOps]
    cases c.prewrite <;> simp
  cases i with
  | closeBus => exact absurd rfl hclose
  | init => exact absurd rfl hinit
  | line off x => exact absurd rfl (hline off x)
  | wrbyte rs v | clear | home | setdda off | cursmode => exact hbyte _ _
  | openBus | wrreg | latch | rdreg | setbl f | getbl | setexcl f | getexcl | setaddr a | getaddr | setdev p | getdev
  | getstat => simp [commandOps, latchOps]

/-- Settles O59: only a `close()` in shared mode gives up a connection. -/
theorem heldConnectionStaysHeld : Obligations.HeldConnectionStaysHeld := by
  intro i s t v n hreset ho hexec hrun hi
  have ha := exec_accepted hexec
  have hresett : t.resetReq = false := by rw [ha.resetReq, hreset]
  have ht : Held s t := ⟨ha.isOpen.trans ho, ha.ldev, ha.laddr⟩
  have hv : Held s v := by
    obtain ⟨hclose, hinit, hline⟩ | ⟨hx, hset⟩ := hi
    · have hkept : Held s v ∧ .closeConn ∉ v.todo :=
        drive_keeps (P := fun a => Held s a ∧ .closeConn ∉ a.todo) hresett hrun
          ⟨ht, exec_todo hexec ▸ closeConn_notMem_commandOps _ hclose hinit hline⟩
          fun w a b ⟨hheld, htodo⟩ hadv _ => (advance_held _ _ _ _ hheld.isOpen htodo hadv).imp_left hheld.trans
      exact hkept.1
    · have hxt : t.excl = true := (ha.excl.resolve_right (hset _)).trans hx
      have hkept : Held s v ∧ v.excl = true :=
        drive_keeps (P := fun a => Held s a ∧ a.excl = true) hresett hrun ⟨ht, hxt⟩
          fun w a b ⟨hheld, hexcl⟩ hadv _ => by
            obtain ⟨g, hends⟩ := advance_ends _ _ _ _ hadv
            obtain ⟨-, hsame, -⟩ := hends.sameSettings
            exact ⟨hheld.trans (hends.held hheld.isOpen hexcl), hsame.trans hexcl⟩
      exact hkept.1
  exact ⟨hv.isOpen, hv.ldev, hv.laddr⟩

end Sys2Proof.Machine
end

section
/-! The image and the byte last written (10_state.md R22 (b)). -/

namespace Sys2Proof.Machine

/-! ### The byte last written -/

theorem lastWritten_wrote (tr : List BusEvent) (name : List Byte) (a v : Byte) (x : WriteAnswer) :
    lastWritten (tr ++ [.wrote name a v x]) = some v := by rw [lastWritten, List.foldl_append]; rfl

theorem lastWritten_opened (tr : List BusEvent) (name : List Byte) (a : Byte) (x : OpenAnswer) :
    lastWritten (tr ++ [.opened name a x]) = lastWritten tr := by rw [lastWritten, List.foldl_append]; rfl

theorem lastWritten_closed (tr : List BusEvent) : lastWritten (tr ++ [.closed]) = lastWritten tr := by
  rw [lastWritten, List.foldl_append]; rfl

theorem lastWritten_sampled (tr : List BusEvent) (name : List Byte) (a : Byte) (x : ReadAnswer) :
    lastWritten (tr ++ [.sampled name a x]) = lastWritten tr := by rw [lastWritten, List.foldl_append]; rfl

/-- The byte last written is the image's, or the command that began in `s` has neither changed the image nor written. -/
def Mirrored (s t : State) : Prop :=
  lastWritten t.trace = some (t.img.byte t.cfg.layout) ∨ (t.img = s.img ∧ lastWritten t.trace = lastWritten s.trace)

theorem Mirrored.congr {s t u : State} (h : Mirrored s t) (hcfg : u.cfg = t.cfg) (himg : u.img = t.img)
    (hlast : lastWritten u.trace = lastWritten t.trace) : Mirrored s u := by
  rw [Mirrored, hcfg, himg, hlast]
  exact h

theorem mirrored_memWrite (s t : State) : Mirrored s t.memWrite.2 := .inl (lastWritten_wrote _ _ _ _ _)

theorem mirrored_startRead (s t : State) (u : ReadUse) (k : List Op) (w : Work) : Mirrored s (startRead u k w t) := by
  left
  rw [startRead_trace, lastWritten_wrote, startRead_cfg]

/-! ### The image is written in the end -/

/-- After the micro-operations the image is as last written. `held`: a connection is held, or the next `open()` succeeds;
`sent`: the image is as last written before them; `named`: an `open()` after a `close()` succeeds. -/
def sentAtEnd (named : Bool) : Bool → Bool → List Op → Bool
  | _, sent, [] => sent
  | held, sent, op :: k =>
    match op with
    | .stage _ => sentAtEnd named held false k
    | .openConn => held && sentAtEnd named held sent k
    | .closeConn => sentAtEnd named named sent k
    | .writeReg _ | .sendTransient _ => held && sentAtEnd named held true k
    | .readStart _ | .sample _ | .readEnd _ => sentAtEnd named held sent k

/-- A connection more and an image already written are no harm. -/
theorem sentAtEnd_mono {named held held' : Bool} {k : List Op} {sent sent' : Bool} (hheld : held = true → held' = true)
    (hsent : sent = true → sent' = true) (h : sentAtEnd named held sent k = true) :
    sentAtEnd named held' sent' k = true := by
  induction k generalizing held held' sent sent' with
  | nil => exact hsent h
  | cons op k ih =>
    cases op with
    | stage f => exact ih hheld id h
    | closeConn => exact ih id hsent h
    | readStart u | sample half | readEnd u => exact ih hheld hsent h
    | openConn =>
      obtain ⟨hh, hk⟩ := Bool.and_eq_true_iff.1 h
      exact Bool.and_eq_true_iff.2 ⟨hheld hh, ih hheld hsent hk⟩
    | writeReg d | sendTransient d =>
      obtain ⟨hh, hk⟩ := Bool.and_eq_true_iff.1 h
      exact Bool.and_eq_true_iff.2 ⟨hheld hh, ih hheld id hk⟩

theorem sentAtEnd_readTail (named : Bool) (c : Config) (u : ReadUse) (k : List Op) :
    sentAtEnd named true true (readTail c u ++ k) = sentAtEnd named true true k := by
  unfold readTail prewriteOps
  cases c.prewrite <;> simp [sentAtEnd]

theorem sentAtEnd_writeByteOps (named sent : Bool) (c : Config) (rs : Bool) (v : Byte) (k : List Op) :
    sentAtEnd named true sent (writeByteOps c rs v ++ k) = sentAtEnd named true true k := by
  unfold writeByteOps stageNibbleOps prewriteOps latchOps
  cases c.prewrite <;> simp [sentAtEnd]

theorem sentAtEnd_rawNibbleOps (named sent : Bool) (c : Config) (n : Nibble) (k : List Op) :
    sentAtEnd named true sent (rawNibbleOps c n ++ k) = sentAtEnd named true true k := by
  unfold rawNibbleOps stageNibbleOps prewriteOps latchOps
  cases c.prewrite <;> simp [sentAtEnd]

theorem sentAtEnd_bytes (named : Bool) (c : Config) (rs : Bool) (vs : List Byte) (k : List Op) :
    sentAtEnd named true true (vs.flatMap (writeByteOps c rs) ++ k) = sentAtEnd named true true k := by
  induction vs with
  | nil => rfl
  | cons v vs ih => rw [List.flatMap_cons, List.append_assoc, sentAtEnd_writeByteOps, ih]

theorem sentAtEnd_commandOps (named : Bool) (c : Config) (i : Instr) :
    sentAtEnd named true true (commandOps c i) = true := by
  cases i with
  | wrbyte rs v | clear | home | setdda off | cursmode =>
    rw [commandOps, ← List.append_nil (writeByteOps ..), sentAtEnd_writeByteOps]
    rfl
  | init =>
    simp only [commandOps, initOps, sentAtEnd, List.append_assoc, Bool.true_and, sentAtEnd_writeByteOps,
      sentAtEnd_rawNibbleOps]
  | line off x =>
    cases x with
    | none => rfl
    | some bs =>
      simp only [commandOps, lineOps, sentAtEnd, List.append_assoc, Bool.true_and, sentAtEnd_writeByteOps, sentAtEnd_bytes]
  | openBus | closeBus | wrreg | latch | rdreg | setbl f | getbl | setexcl f | getexcl | setaddr a | getaddr | setdev p
  | getdev | getstat => rfl

/-! ### Along the run -/

/-- A connection is held, or an `open()` that is answered `ok` gets one. -/
def State.canOpen (s : State) : Bool := s.isOpen || s.dev.isSome

theorem canOpen_of_isOpen {s : State} (h : s.isOpen = true) : s.canOpen = true := by rw [State.canOpen, h, Bool.true_or]

theorem canOpen_of_dev {s : State} {name : List Byte} (h : s.dev = some name) : s.canOpen = true := by
  rw [State.canOpen, h, Option.isSome_some, Bool.or_true]

/-- With the micro-operations `k` to do in `t`, the command that began in `s` ends with the image as last written. -/
def WillMirror (s : State) (k : List Op) (t : State) : Prop :=
  ∃ sent, (sent = true → Mirrored s t) ∧ sentAtEnd t.dev.isSome t.canOpen sent k = true

theorem WillMirror.mirrored {s t : State} (h : WillMirror s [] t) : Mirrored s t :=
  have ⟨_, hsent, hk⟩ := h
  hsent hk

theorem WillMirror.tail {s t : State} {op : Op} {k : List Op} (h : WillMirror s (op :: k) t)
    (hop : ∀ sent, sentAtEnd t.dev.isSome t.canOpen sent (op :: k) = true →
      sentAtEnd t.dev.isSome t.canOpen sent k = true) : WillMirror s k t :=
  have ⟨sent, hsent, hk⟩ := h
  ⟨sent, hsent, hop sent hk⟩

/-- A successful `BusOpen` writes nothing. -/
theorem WillMirror.bound {s t : State} {k : List Op} (h : WillMirror s k t) {name : List Byte} (hd : t.dev = some name)
    {x : OpenAnswer} {e : Env} (w : Work) :
    WillMirror s k (((t.record (.opened name t.addr x) e).bind name).park k w) := by
  obtain ⟨sent, hsent, hend⟩ := h
  rw [canOpen_of_dev hd] at hend
  exact ⟨sent, fun hs => (hsent hs).congr rfl rfl (lastWritten_opened _ _ _ _), hend⟩

theorem willMirror_startRead (s : State) {t : State} (ho : t.isOpen = true) {k : List Op} {sent : Bool}
    (hk : sentAtEnd t.dev.isSome t.canOpen sent k = true) (u : ReadUse) (w : Work) :
    WillMirror s (startRead u k w t).todo (startRead u k w t) := by
  refine ⟨true, fun _ => mirrored_startRead _ _ _ _ _, ?_⟩
  rw [canOpen_of_isOpen ho] at hk
  rw [startRead_todo, canOpen_of_isOpen (by rw [startRead_isOpen, ho]), sentAtEnd_readTail, startRead_dev]
  exact sentAtEnd_mono id (fun _ => rfl) hk

/-- The `BusOpen` the step issues, if it issues one, is answered `ok`. -/
def OpensOk (s t : State) : Prop := ∀ name a x, t.trace = s.trace ++ [.opened name a x] → x = .ok

/-- A step whose `BusOpen` succeeds goes on so that the image ends as last written. -/
theorem advance_willMirror {s : State} (k : List Op) (w : Work) (t u : State) (hk : WillMirror s k t)
    (h : advance k w t = .next u) (hopens : OpensOk t u) : WillMirror s u.todo u := by
  fun_induction advance k w t with
  | case1 w t => cases h; exact ⟨true, fun _ => hk.mirrored.congr rfl rfl rfl, rfl⟩
  | case2 f k w t ih =>
    obtain ⟨sent, -, hend⟩ := hk
    exact ih ⟨false, fun hf => Bool.noConfusion hf, hend⟩ h hopens
  | case3 k w t ho ih => exact ih (hk.tail fun _ hend => (Bool.and_eq_true_iff.1 hend).2) h hopens
  | case16 v k w t _ ih | case19 v k w t _ _ ih | case21 v k w t _ _ _ ih | case22 v k w t _ _ ih =>
    exact ih (hk.tail fun _ hend => hend) h hopens
  | case4 k w t ho hd | case10 d k w t ho hd =>
    obtain ⟨sent, -, hend⟩ := hk
    have hcan : t.canOpen = true := (Bool.and_eq_true_iff.1 hend).1
    simp [State.canOpen, ho, hd] at hcan
  | case5 k w t ho n hd t1 hb =>
    cases h
    obtain ⟨-, rfl⟩ := busOpen_ok hb
    exact (hk.tail fun _ hend => (Bool.and_eq_true_iff.1 hend).2).bound hd w
  | case11 d k w t ho n hd t1 hb =>
    cases h
    obtain ⟨-, rfl⟩ := busOpen_ok hb
    obtain ⟨sent, hsent, hend⟩ := hk
    refine WillMirror.bound (k := .sendTransient d :: .closeConn :: k) ⟨sent, hsent, ?_⟩ hd w
    rw [canOpen_of_dev hd, hd] at hend ⊢
    exact hend
  | case6 k w t ho n hd f t1 hb | case12 d k w t ho n hd f t1 hb =>
    cases h
    obtain ⟨hne, -, rfl⟩ := busOpen_err hb
    exact absurd (hopens _ _ _ rfl) hne
  | case7 k w t ho =>
    cases h
    obtain ⟨sent, hsent, hend⟩ := hk
    exact ⟨sent, fun hs => (hsent hs).congr rfl rfl (lastWritten_closed _), hend⟩
  | case8 k w t ho ih =>
    exact ih (hk.tail fun _ hend => sentAtEnd_mono (fun hn => by rw [State.canOpen, hn, Bool.or_true]) id hend) h hopens
  | case9 d k w t ho | case13 d k w t ho =>
    cases h
    obtain ⟨sent, -, hend⟩ := hk
    exact ⟨true, fun _ => mirrored_memWrite _ _, (Bool.and_eq_true_iff.1 hend).2⟩
  | case17 half k w t ho =>
    cases h
    obtain ⟨sent, hsent, hend⟩ := hk
    exact ⟨sent, fun hs => (hsent hs).congr rfl rfl (lastWritten_sampled _ _ _ _), hend⟩
  | case14 | case18 => cases h
  | case15 v k w t ho | case20 v k w t _ _ ho =>
    cases h
    obtain ⟨sent, -, hend⟩ := hk
    exact willMirror_startRead s ho (k := k) (sent := sent) hend _ w

/-- Settles O60: the image is written after its last staging in every procedure, and a connection is held or opened for
each of its writes. -/
theorem imageMirrorsTheLastWrite : Obligations.ImageMirrorsTheLastWrite := by
  intro i s t v n events hreset hconn hexec hrun hidle hevents hok
  have ha := exec_accepted hexec
  have hcan : t.canOpen = true ∨ commandOps s.cfg i = [] := by
    obtain hdev | rfl := ha.dev
    · obtain ho | hd := hconn
      · exact .inl (canOpen_of_isOpen (ha.isOpen.trans ho))
      · obtain ⟨name, hname⟩ := Option.ne_none_iff_exists'.1 hd
        exact .inl (canOpen_of_dev (hdev.trans hname))
    · exact .inr rfl
  have ht : WillMirror s t.todo t := by
    refine ⟨true, fun _ => .inr ⟨ha.img, by rw [ha.trace]⟩, ?_⟩
    rw [exec_todo hexec]
    obtain hcan | hnone := hcan
    · rw [hcan, sentAtEnd_commandOps]
    · rw [hnone, sentAtEnd]
  have hv : s.trace <+: v.trace ∧ WillMirror s v.todo v :=
    drive_keeps (P := fun a => s.trace <+: a.trace ∧ WillMirror s a.todo a) (by rw [ha.resetReq, hreset]) hrun
      ⟨ha.trace ▸ List.prefix_rfl, ht⟩ fun w a b ⟨hpre, hwill⟩ hadv hpost => by
        obtain ⟨g, hends⟩ := advance_ends _ _ _ _ hadv
        refine ⟨hpre.trans hends.trace, advance_willMirror _ _ _ _ hwill hadv fun name addr x hx => hok name addr x ?_⟩
        obtain ⟨before, hbefore⟩ := hpre
        obtain ⟨after, hafter⟩ := hpost
        rw [← hafter, hx, ← hbefore, List.append_assoc, List.append_assoc, List.append_cancel_left_eq] at hevents
        rw [← hevents]
        simp
  rw [todo_of_idle hidle] at hv
  exact hv.2.mirrored

end Sys2Proof.Machine
end
